-- ==== Sys2Proof/Word.lean ====
section
/-! DEFINITION. The words of the block: 8-bit samples and stream bytes, 16-bit phases and
addresses, and their plainest readings (spec/00_scope.md R10, R11; spec/30_encoding.md R89 to R92). -/

namespace Sys2Proof

/-- One byte of the note stream (R60). -/
abbrev Byte := BitVec 8

/-- One unsigned 8-bit sample (R89). -/
abbrev Sample := BitVec 8

/-- A 16-bit phase, increment, LFSR value, address or offset (R8, R26, R91). -/
abbrev Word16 := BitVec 16

/-- A pitch index as it stands in a NOTE's first byte, 7 bits (R83, R92). -/
abbrev Pitch := BitVec 7

/-- A track index as the ports carry it, 8 bits (R35, R201). -/
abbrev TrackId := BitVec 8

/-- The mid-point silence value 128 (R89). -/
abbrev silence : Sample := 128#8

end Sys2Proof
end

