-- ==== Sys2Proof/Syntax.lean ====
section
/-! DEFINITION. The block's operations: one constructor per row of spec/opcode_table.json, and the
records their operands are (spec/00_scope.md R9; spec/30_encoding.md R80 to R88). -/

namespace Sys2Proof

/-- CFG[i], the static configuration of one track (R9). -/
structure TrackCfg where
  /-- 16-bit stream base address. -/
  base : Word16
  /-- 16-bit stream length in bytes. -/
  len : Word16
  /-- 3-bit generator code (R86); codes 5 to 7 are reserved and refused. -/
  gen : BitVec 3
  /-- Initial value of ACTIVE. -/
  playing : Bool
  /-- Initial value of LOOP. -/
  loopsOnEnd : Bool
  deriving DecidableEq, Repr, Inhabited

/-- The record whose fields are all zero. -/
def TrackCfg.zero : TrackCfg :=
  { base := 0, len := 0, gen := 0, playing := false, loopsOnEnd := false }

/-- An event of a note stream, as its bytes say it (R80 to R83). -/
inductive StreamEvent where
  /-- NOTE with its pitch byte's bits 6..0 and its whole tick byte (R83). -/
  | note (p : Pitch) (t : Byte)
  /-- REST with bits 6..0 of its one byte (R82). -/
  | rest (t : BitVec 7)
  deriving DecidableEq, Repr

/-- The operations of spec/opcode_table.json, one constructor a row. An operation the sequencer
performs for one track names that track (the index `i` of the spec's pseudocode); the track is no
part of the encoding but says in whose stream, or in whose GEN register, the code stands. -/
inductive Instr where
  /-- NOTE (R144): resolve a note event of track `i` and produce its first sample. -/
  | note (i : TrackId) (p : Pitch) (t : Byte)
  /-- REST (R145): resolve a rest event of track `i` and produce its first sample. -/
  | rest (i : TrackId) (t : BitVec 7)
  /-- SAW (R114). -/
  | saw (i : TrackId)
  /-- TRI (R115). -/
  | tri (i : TrackId)
  /-- SQUARE (R116). -/
  | square (i : TrackId)
  /-- NOISE93 (R120). -/
  | noise93 (i : TrackId)
  /-- NOISE32K (R121). -/
  | noise32k (i : TrackId)
  /-- GEN_RESERVED_101 (R86): generator code 0b101 in the configuration of track `i`. -/
  | genReserved101 (i : TrackId)
  /-- GEN_RESERVED_110 (R86). -/
  | genReserved110 (i : TrackId)
  /-- GEN_RESERVED_111 (R86). -/
  | genReserved111 (i : TrackId)
  /-- END_LOOP (R147), no encoding. -/
  | endLoop (i : TrackId)
  /-- END_STOP (R148), no encoding. -/
  | endStop (i : TrackId)
  /-- MIX (R171), internal. -/
  | mix
  /-- TICK (R191), port strobe sample_tick. -/
  | tick
  /-- COMPUTE_START (R193), internal. -/
  | computeStart
  /-- COMPUTE_COMMIT (R194), internal. -/
  | computeCommit
  /-- TRACK_INIT(i, cfg) (R197), port strobe track_init. -/
  | trackInit (i : TrackId) (c : TrackCfg)
  /-- RESET (R250), port strobe rst. -/
  | reset
  deriving DecidableEq, Repr

/-- The operation a stream event of track `i` stands for. -/
def StreamEvent.toInstr (i : TrackId) : StreamEvent → Instr
  | .note p t => .note i p t
  | .rest t => .rest i t

end Sys2Proof
end

