-- ==== Sys2Proof/WellFormed.lean ====
section
/-! DEFINITION. Which operations are legal encodings, and which note streams are well formed
(spec/30_encoding.md R85, R86; spec/43_pipeline.md R197; spec/70_reset_and_hazards.md R254). -/

namespace Sys2Proof

/-- A legal event: pitch 0..71 and a tick count of at least 1 (R85). -/
def StreamEvent.wellFormed : StreamEvent → Bool
  | .note p t => decide (p.toNat ≤ 71) && decide (t ≠ 0)
  | .rest t => decide (t ≠ 0)

/-- The window of a track configuration ends inside the 64 KiB address space (R62, R226 line 8). -/
def TrackCfg.windowOk (c : TrackCfg) : Bool := decide (c.base.toNat + c.len.toNat ≤ 65536)

/-- The generator code is one of the five variants (R86, R226 line 7). -/
def TrackCfg.genOk (c : TrackCfg) : Bool := decide (c.gen.toNat ≤ 4)

/-- A legal operation: a legal event, a generator code that is not reserved, and for TRACK_INIT a
configuration record that no state-independent check refuses (R85, R86, R197). -/
def Instr.wellFormed : Instr → Bool
  | .note _ p t => (StreamEvent.note p t).wellFormed
  | .rest _ t => (StreamEvent.rest t).wellFormed
  | .saw _ => true
  | .tri _ => true
  | .square _ => true
  | .noise93 _ => true
  | .noise32k _ => true
  | .genReserved101 _ => false
  | .genReserved110 _ => false
  | .genReserved111 _ => false
  | .endLoop _ => true
  | .endStop _ => true
  | .mix => true
  | .tick => true
  | .computeStart => true
  | .computeCommit => true
  | .trackInit _ c => c.genOk && c.windowOk
  | .reset => true

end Sys2Proof
end

