-- ==== Sys2Proof/Decode.lean ====
section
/-! DEFINITION. The encodings, decoder and encoder (spec/30_encoding.md R80 to R88, R94, R95;
spec/opcode_table.json). The block decodes three separate spaces: the bytes of a note stream, the
3-bit generator code of a track, and the strobes of its ports. -/

namespace Sys2Proof

/-- Where a code stands and what its bits are. -/
inductive Code where
  /-- The bytes of one event at the cursor of the stream of `track` (R80). -/
  | stream (track : TrackId) (bytes : List Byte)
  /-- The generator code of `track` (R86). -/
  | generator (track : TrackId) (code : BitVec 3)
  /-- The strobe of port sample_tick (R201). -/
  | sampleTick (strobe : BitVec 1)
  /-- The strobe of port track_init with its index and record (R201). -/
  | trackInit (strobe : BitVec 1) (i : TrackId) (c : TrackCfg)
  /-- The strobe of port rst (R201). -/
  | rst (strobe : BitVec 1)
  deriving DecidableEq, Repr

/-- Why a code is no operation. -/
inductive DecodeError where
  /-- There is no byte: the stream's end is not encoded (R88). -/
  | noByte
  /-- A NOTE's pitch byte with pitch `p`, and no byte after it (R85). -/
  | missingTick (p : Pitch)
  /-- Bytes are left over after one event. -/
  | extraBytes
  /-- The port's strobe is 0: nothing is requested. -/
  | noStrobe
  deriving DecidableEq, Repr

/-- Bits 6..0 of a byte (R82, R83). -/
def lowBits (b : Byte) : BitVec 7 := b.extractLsb' 0 7

/-- Bit 7 of an event's first byte, which alone decides its kind and length (R81). -/
def isRestByte (b : Byte) : Bool := b.getLsbD 7

/-- One event from the front of a byte list, and the bytes after it (R81 to R83). -/
def decodeEvent : List Byte → Except DecodeError (StreamEvent × List Byte)
  | [] => .error .noByte
  | b0 :: rest =>
    if isRestByte b0 then .ok (.rest (lowBits b0), rest)
    else
      match rest with
      | [] => .error (.missingTick (lowBits b0))
      | b1 :: rest' => .ok (.note (lowBits b0) b1, rest')

/-- The operation a generator code selects for track `i` (R86). -/
def decodeGenerator (i : TrackId) (g : BitVec 3) : Instr :=
  match g.toNat with
  | 0 => .saw i
  | 1 => .tri i
  | 2 => .square i
  | 3 => .noise93 i
  | 4 => .noise32k i
  | 5 => .genReserved101 i
  | 6 => .genReserved110 i
  | _ => .genReserved111 i

/-- The operation a code stands for, or the reason it is none. -/
def decode : Code → Except DecodeError Instr
  | .stream i bs =>
    match decodeEvent bs with
    | .ok (e, []) => .ok (e.toInstr i)
    | .ok (_, _ :: _) => .error .extraBytes
    | .error e => .error e
  | .generator i g => .ok (decodeGenerator i g)
  | .sampleTick b => if b = 1#1 then .ok .tick else .error .noStrobe
  | .trackInit b i c => if b = 1#1 then .ok (.trackInit i c) else .error .noStrobe
  | .rst b => if b = 1#1 then .ok .reset else .error .noStrobe

/-- The bytes of an event (R82, R83). -/
def encodeEvent : StreamEvent → List Byte
  | .note p t => [0#1 ++ p, t]
  | .rest t => [1#1 ++ t]

/-- The code of an operation; none for the five rows the table gives no encoding (END_LOOP,
END_STOP, MIX, COMPUTE_START, COMPUTE_COMMIT). -/
def encode : Instr → Option Code
  | .note i p t => some (.stream i (encodeEvent (.note p t)))
  | .rest i t => some (.stream i (encodeEvent (.rest t)))
  | .saw i => some (.generator i 0b000#3)
  | .tri i => some (.generator i 0b001#3)
  | .square i => some (.generator i 0b010#3)
  | .noise93 i => some (.generator i 0b011#3)
  | .noise32k i => some (.generator i 0b100#3)
  | .genReserved101 i => some (.generator i 0b101#3)
  | .genReserved110 i => some (.generator i 0b110#3)
  | .genReserved111 i => some (.generator i 0b111#3)
  | .endLoop _ => none
  | .endStop _ => none
  | .mix => none
  | .tick => some (.sampleTick 1#1)
  | .computeStart => none
  | .computeCommit => none
  | .trackInit i c => some (.trackInit 1#1 i c)
  | .reset => some (.rst 1#1)

/-- The bytes of a listing of events (R94). -/
def assemble : List StreamEvent → List Byte
  | [] => []
  | e :: es => encodeEvent e ++ assemble es

/-- A stream decoded from offset 0 consumes exactly its bytes, and every event is legal (R254). -/
def streamWellFormed : List Byte → Bool
  | [] => true
  | b0 :: rest =>
    if isRestByte b0 then (StreamEvent.rest (lowBits b0)).wellFormed && streamWellFormed rest
    else
      match rest with
      | [] => false
      | b1 :: rest' =>
        (StreamEvent.note (lowBits b0) b1).wellFormed && streamWellFormed rest'

/-- The counts of the events a pseudo-instruction of `t` ticks expands to, when one event holds at
most `m` ticks (R95). -/
def splitTicks (m t : Nat) : List Nat :=
  List.replicate (t / m) m ++ if t % m = 0 then [] else [t % m]

/-- `REST* t` (R95). -/
def restStar (t : Nat) : List StreamEvent :=
  (splitTicks 127 t).map fun n => .rest (BitVec.ofNat 7 n)

/-- `NOTE* p, t` (R95). -/
def noteStar (p : Pitch) (t : Nat) : List StreamEvent :=
  (splitTicks 255 t).map fun n => .note p (BitVec.ofNat 8 n)

/-- The code a word of the opcode table stands for. The three encoding spaces overlap (byte 0x01 is
a pitch, generator TRI and a port strobe), so the width and the high bit choose: two bytes, or a byte
with its high bit set, are a stream event; a single bit is the strobe of sample_tick, the first port
row; a lone byte below 8 is a generator code; any other byte is a NOTE whose tick byte is zero.
DESIGN CHOICE (log entry 11). -/
def tableCode (nbits w : Nat) : Code :=
  let b0 := BitVec.ofNat 8 w
  let b1 := BitVec.ofNat 8 (w / 256)
  if isRestByte b0 then .stream 0 [b0]
  else if nbits > 8 then .stream 0 [b0, b1]
  else if nbits = 1 then .sampleTick (BitVec.ofNat 1 w)
  else if w < 8 then .generator 0 (BitVec.ofNat 3 w)
  else .stream 0 [b0, 0]

/-- What the decoder reads from a word of the opcode table, on track 0. -/
def decodeTableWord (nbits w : Nat) : Option Instr :=
  match decode (tableCode nbits w) with
  | .ok i => some i
  | .error _ => none

end Sys2Proof
end

