-- ==== Sys2Proof/Config.lean ====
section
/-! DEFINITION. The block's parameters, the moves its agents can make, and the free values the spec
leaves open (spec/00_scope.md R8, R15; spec/10_state.md R37, R41; spec/43_pipeline.md R196, R201). -/

namespace Sys2Proof

/-- WRAP_MODE: what a looping track emits on the step that wraps its stream (R8, R147). -/
inductive WrapMode where
  /-- The wrap step emits 128 and runs no generator (the default). -/
  | silent
  /-- The wrap step runs the generator from phase 0. -/
  | stale
  deriving DecidableEq, Repr, Inhabited

/-- cfg_global, the record sampled at RESET (R8, R201). -/
structure GlobalCfg where
  nTracks : Nat
  attenExp : Nat
  samplesPerTick : Nat
  noiseSeed : Word16
  wrapMode : WrapMode
  deriving DecidableEq, Repr, Inhabited

/-- One move of one of the block's three agents (R15). The order of moves is the run's total order
of operations (R13). -/
inductive Event where
  /-- The timing source strobes sample_tick (R191). -/
  | tick
  /-- The producer takes its turn: COMMIT if it is computing, else START if enabled, else it idles
  (R193, R194, R242). -/
  | produce
  /-- The host strobes rst (R250). -/
  | rst
  /-- The host changes what it presents on cfg_global and cfg_track (R258). -/
  | present (g : GlobalCfg) (ts : List TrackCfg)
  /-- The host raises a TRACK_INIT request, which then waits (R197). -/
  | request (i : TrackId) (c : TrackCfg)
  /-- The oldest waiting TRACK_INIT request takes its turn (R197, R256). -/
  | serve
  deriving DecidableEq, Repr, Inhabited

/-- FREE VALUE: the agents' moves before the producer's next turn, once the moves written in
State.schedule are used up, one list for each value of State.turn. The spec admits every interleaving
that is weakly fair to the producer (R196). Log entries 3 and 4. -/
opaque Config.freeMoves : Nat → List Event

/-- FREE VALUE: what register number `r` of track `i` holds after the `d`-th refused RESET, whose
track registers are undefined (R41). Log entry 8. -/
opaque Config.freeWord : (d i r : Nat) → BitVec 32

/-- Default NOISE_SEED (R8). -/
def Config.defaultSeed : Word16 := 0x0001#16

/-- Default NOISE_THRESHOLD, the identity (R8, R117), as a table over the 7-bit CURRENT_NOTE. -/
def Config.defaultThreshold : Vector Word16 128 :=
  ⟨((List.range 128).map (BitVec.ofNat 16)).toArray, by simp⟩

end Sys2Proof
end

