-- ==== Sys2Proof/Machine/State.lean ====
section
/-! DEFINITION. The state of the block (spec/10_state.md), the reasons a step can stop, and the
state after RESET (spec/70_reset_and_hazards.md R250, R251). -/

namespace Sys2Proof.Machine

open Sys2Proof

/-- Why the machine stops. Both are raised only in states no accepted RESET leads to. -/
inductive Fault where
  /-- Raised by the event fetch of SEQ_STEP when BASE + POS lies outside the 64 KiB note-stream
  memory (R60, R62). Safe: the machine stops where the spec says no address is. -/
  | streamAddress (addr : Nat)
  /-- Raised by GEN_DISPATCH on a reserved generator code, which the spec says cannot occur (R141).
  Safe: the machine stops where the spec gives no generator. -/
  | noGenerator (gen : BitVec 3)
  deriving DecidableEq, Repr

/-- Why a step has no meaning. -/
inductive Refusal where
  /-- Raised by exec's arm of an instruction that has no meaning yet; no arm uses it now. Safe. -/
  | notModelled (mnemonic : String)
  deriving DecidableEq, Repr

/-- FAULT.code (R35, R221). -/
inductive FaultCode where
  | none
  | streamOverrun
  | badPitch
  | zeroDuration
  deriving DecidableEq, Repr, Inhabited

/-- FAULT, the sticky fault record (R35). -/
structure FaultReg where
  code : FaultCode
  track : TrackId
  pos : Word16
  deriving DecidableEq, Repr, Inhabited

/-- CFG_STATUS: accepted, or the first configuration check that failed (R36, R226). -/
inductive CfgStatus where
  | accepted
  | nTracks
  | attenRange
  | attenPos
  | attenNeg
  | sptZero
  | sptOverflow
  | gen
  | window
  | seed
  deriving DecidableEq, Repr, Inhabited

/-- The registers of one track (R21 to R30). -/
structure Track where
  /-- PHASE: tonal phase, or hold counter of a noise generator (R21). -/
  phase : Word16
  /-- FREQ_INC: phase step; 0 means silent (R22). -/
  freqInc : Word16
  /-- NOISE: the LFSR (R23). -/
  noise : Word16
  /-- CURRENT_NOTE (R24). -/
  currentNote : Pitch
  /-- REM: samples left of the current event (R25). -/
  rem : BitVec 32
  /-- POS: the track's program counter (R26). -/
  pos : Word16
  /-- ACTIVE (R27). -/
  active : Bool
  /-- LOOP (R28). -/
  loop : Bool
  /-- GEN (R29). -/
  gen : BitVec 3
  /-- BASE (R30). -/
  base : Word16
  /-- LEN (R30). -/
  len : Word16
  deriving DecidableEq, Repr, Inhabited

/-- The constants of a run that lie outside the block's registers (R8, R37, R60): no operation
changes them. -/
structure Rom where
  /-- Note-stream memory: the bytes that are not 0, addresses rising. -/
  stream : List Host.Cell
  /-- FREQ_TABLE (R64). -/
  freq : Vector Word16 72
  /-- NOISE_THRESHOLD over the 7-bit CURRENT_NOTE (R117). -/
  threshold : Vector Word16 128
  /-- SAMPLE_RATE, which no rule of the block reads (R237). -/
  sampleRate : Nat
  deriving DecidableEq, Repr

/-- What the host presents on the configuration ports (R201). -/
structure Pins where
  /-- cfg_global. -/
  global : GlobalCfg
  /-- cfg_track, entry i for track i. -/
  tracks : List TrackCfg
  deriving DecidableEq, Repr, Inhabited

/-- The answer of port track_init (R198, R201). -/
inductive InitAnswer where
  | accepted
  | refused
  deriving DecidableEq, Repr, Inhabited

/-- A TRACK_INIT request that waits for its turn (R197). -/
structure InitRequest where
  track : TrackId
  cfg : TrackCfg
  deriving DecidableEq, Repr, Inhabited

/-- The state of the block and of what its ports carry. -/
structure State where
  /-- The per-track register bank, track 0 first (R20). -/
  tracks : List Track
  /-- HELD (R32). -/
  held : Sample
  /-- READY (R33). -/
  ready : Bool
  /-- BUSY (R34). -/
  busy : Bool
  /-- FAULT (R35). -/
  fault : FaultReg
  /-- CFG_STATUS (R36). -/
  cfgStatus : CfgStatus
  /-- Whether a first RESET has happened (R252). -/
  resetDone : Bool
  /-- The global configuration the last RESET sampled (R37, R258). -/
  cfg : GlobalCfg
  /-- The two read-only memories and the other constants of the run (R37, R60). -/
  rom : Rom
  /-- The values DacWrite has handed to the output device, oldest first (R16, R238). -/
  dac : List Sample
  /-- The answers given on port track_init, oldest first (R198). -/
  answers : List InitAnswer
  /-- The model's own field: the value the last sub-operation executed by itself returned
  (`return v` of R12). -/
  sample : Sample
  /-- What the host presents on the configuration ports (R201). -/
  pins : Pins
  /-- TRACK_INIT requests not yet taken, oldest first (R197). -/
  waiting : List InitRequest
  /-- The model's own field: the agents' next moves, in order (R13, R15). -/
  schedule : List Event
  /-- The model's own field: how many lists of moves were drawn from Config.freeMoves. -/
  turn : Nat
  /-- The model's own field: how many RESETs were refused; each draws free track registers. -/
  draws : Nat
  deriving DecidableEq, Repr

/-- The configuration State.reset is a RESET of: the smallest one that passes every check of R226,
with the defaults the spec names. DESIGN CHOICE (log entry 5). -/
def GlobalCfg.initial : GlobalCfg :=
  { nTracks := 1, attenExp := 0, samplesPerTick := 1, noiseSeed := Config.defaultSeed,
    wrapMode := .silent }

/-- Memories with nothing placed in them. DESIGN CHOICE (log entries 5 and 6). -/
def Rom.initial : Rom :=
  { stream := [], freq := Vector.replicate 72 0, threshold := Config.defaultThreshold,
    sampleRate := 0 }

/-- The block right after a RESET that accepted GlobalCfg.initial with an all-zero CFG[0] (R250,
R251). -/
def State.reset : State :=
  { tracks :=
      [{ phase := 0, freqInc := 0, noise := Config.defaultSeed, currentNote := 0, rem := 0, pos := 0,
         active := false, loop := false, gen := 0, base := 0, len := 0 }]
    held := silence
    ready := false
    busy := false
    fault := { code := .none, track := 0, pos := 0 }
    cfgStatus := .accepted
    resetDone := true
    cfg := GlobalCfg.initial
    rom := Rom.initial
    dac := []
    answers := []
    sample := silence
    pins := { global := GlobalCfg.initial, tracks := [TrackCfg.zero] }
    waiting := []
    schedule := []
    turn := 0
    draws := 0 }

end Sys2Proof.Machine
end

