-- ==== Sys2Proof/Machine/Flags.lean ====
section
/-! DEFINITION. The conditions the block's operations are enabled by. The block has no condition
codes (spec/10_state.md R39); its flags ACTIVE, LOOP, READY and BUSY, with FAULT.code and CFG_STATUS,
decide which operation can be taken. -/

namespace Sys2Proof.Machine

open Sys2Proof

/-- FAULT.code as its two bits (R35, R221). -/
def FaultCode.bits : FaultCode → BitVec 2
  | .none => 0
  | .streamOverrun => 1
  | .badPitch => 2
  | .zeroDuration => 3

/-- CFG_STATUS as its four bits (R36, R226). -/
def CfgStatus.bits : CfgStatus → BitVec 4
  | .accepted => 0
  | .nTracks => 1
  | .attenRange => 2
  | .attenPos => 3
  | .attenNeg => 4
  | .sptZero => 5
  | .sptOverflow => 6
  | .gen => 7
  | .window => 8
  | .seed => 9

/-- An accepted RESET has happened: some operation other than RESET can be enabled (R36, R252). -/
def State.live (s : State) : Bool := s.resetDone && decide (s.cfgStatus = .accepted)

/-- COMPUTE_START is enabled (R193). -/
def State.startEnabled (s : State) : Bool :=
  s.live && s.ready && !s.busy && decide (s.fault.code = .none)

/-- COMPUTE_COMMIT is enabled, and with it the operations inside it (R194). -/
def State.commitEnabled (s : State) : Bool := s.live && s.busy

/-- TRACK_INIT is enabled (R197). -/
def State.initEnabled (s : State) : Bool := s.live && !s.busy

/-- The track is at a note boundary (R140). -/
def Track.atBoundary (k : Track) : Bool := k.active && decide (k.rem = 0)

/-- The next step of the track resolves an event (R143). -/
def Track.atEvent (k : Track) : Bool := k.atBoundary && decide (k.pos ≠ k.len)

/-- The next step of the track performs END_LOOP (R147). -/
def Track.atLoopEnd (k : Track) : Bool := k.atBoundary && decide (k.pos = k.len) && k.loop

/-- The next step of the track performs END_STOP (R148). -/
def Track.atStopEnd (k : Track) : Bool := k.atBoundary && decide (k.pos = k.len) && !k.loop

/-- Generator `code` may be invoked for the track (R110). -/
def Track.generates (code : BitVec 3) (k : Track) : Bool :=
  k.active && decide (k.freqInc ≠ 0) && decide (k.gen = code)

end Sys2Proof.Machine
end

