-- ==== Sys2Proof/Machine/Operands.lean ====
section
/-! DEFINITION. Reading the two memories and assembling operands (spec/20_memory.md R60 to R64;
spec/30_encoding.md R84, R90; spec/42_mixer.md R173). -/

namespace Sys2Proof.Machine

open Sys2Proof

/-- What a note-stream address nothing was placed at reads as. DESIGN CHOICE (log entry 6). -/
def Memory.unlisted : Byte := 0

/-- The byte at an address of a cell list. -/
def Memory.lookup : List Host.Cell → Nat → Byte
  | [], _ => Memory.unlisted
  | (b, v) :: cs, a => if a = b then v else Memory.lookup cs a

/-- The cell list with byte `v` at address `a`, in canonical form. -/
def Memory.write : List Host.Cell → Nat → Byte → List Host.Cell
  | [], a, v => if v = Memory.unlisted then [] else [(a, v)]
  | (b, w) :: cs, a, v =>
    if a < b then (if v = Memory.unlisted then (b, w) :: cs else (a, v) :: (b, w) :: cs)
    else if a = b then (if v = Memory.unlisted then cs else (a, v) :: cs)
    else (b, w) :: Memory.write cs a v

/-- Every address of the list is above `lo` and below 65536, they rise strictly, and no entry holds
what an unlisted address reads as. -/
def Memory.wfFrom : Nat → List Host.Cell → Bool
  | _, [] => true
  | lo, (a, v) :: cs =>
    decide (lo ≤ a) && decide (a < 65536) && decide (v ≠ Memory.unlisted) && Memory.wfFrom (a + 1) cs

/-- The canonical form of the note-stream memory. -/
def Memory.wf (m : List Host.Cell) : Bool := Memory.wfFrom 0 m

/-- MemRead(addr, 1): one byte, or none outside the 64 KiB space (R60, R61). -/
def memRead (rom : Rom) (addr : Nat) : Option Byte :=
  if addr < 65536 then some (Memory.lookup rom.stream addr) else none

/-- FreqRead(k) for k in 0..71 (R64). -/
def freqRead (rom : Rom) (k : Fin 72) : Word16 := rom.freq[k]

/-- NOISE_THRESHOLD(CURRENT_NOTE) (R117). -/
def noiseThreshold (rom : Rom) (n : Pitch) : Word16 := rom.threshold[n.toNat]'n.isLt

/-- The duration in samples of `ticks` ticks, as REM holds it (R84, R146). -/
def duration (cfg : GlobalCfg) (ticks : Nat) : BitVec 32 := BitVec.ofNat 32 (ticks * cfg.samplesPerTick)

/-- The signed offset of a sample from the mid-point (R90). -/
def offset (v : Sample) : Int := (v.toNat : Int) - 128

/-- One track's term of the mix: the offset shifted right arithmetically, that is the floor of its
quotient by 2^e (R173). -/
def mixTerm (e : Nat) (v : Sample) : Int := offset v >>> e

/-- The re-biased sum, truncated to 8 bits (R174). -/
def rebias (acc : Int) : Sample := BitVec.ofInt 8 (128 + acc)

/-- The bytes of the event at the track's cursor that lie inside its stream: one byte, or two when
the first is a NOTE's and the next offset is below LEN (R61, R143, R144). Error: the address. -/
def fetchEvent (rom : Rom) (k : Track) : Except Nat (List Byte) :=
  let a := k.base.toNat + k.pos.toNat
  match memRead rom a with
  | none => .error a
  | some b0 =>
    if isRestByte b0 then .ok [b0]
    else if k.pos.toNat + 1 < k.len.toNat then
      match memRead rom (a + 1) with
      | none => .error (a + 1)
      | some b1 => .ok [b0, b1]
    else .ok [b0]

end Sys2Proof.Machine
end

