-- ==== Sys2Proof/Machine/Ops.lean ====
section
/-! DEFINITION. The shared operations the instructions are made of: the waveform generators
(spec/40_generators.md), the track sequencer (spec/41_sequencer.md), the mixer (spec/42_mixer.md),
taking a fault (spec/60_exceptions.md R221), the configuration checks (R226) and RESET
(spec/70_reset_and_hazards.md R250). The block has no return from a fault (R233): only RESET clears
FAULT. -/

namespace Sys2Proof.Machine

open Sys2Proof

/-! ### State updates -/

def State.setTracks (s : State) (ts : List Track) : State := { s with tracks := ts }

/-- The registers of track `i` written; a track that does not exist is not. -/
def State.setTrack (s : State) (i : TrackId) (k : Track) : State :=
  s.setTracks (s.tracks.set i.toNat k)

def State.setSample (s : State) (v : Sample) : State := { s with sample := v }
def State.setHeld (s : State) (v : Sample) : State := { s with held := v }
def State.setReady (s : State) (b : Bool) : State := { s with ready := b }
def State.setBusy (s : State) (b : Bool) : State := { s with busy := b }
def State.setFault (s : State) (f : FaultReg) : State := { s with fault := f }

/-- DacWrite(v): the device always accepts (R238). -/
def State.dacWrite (s : State) (v : Sample) : State := { s with dac := s.dac ++ [v] }

/-- The answer the host gets on port track_init (R198). -/
def State.answer (s : State) (a : InitAnswer) : State := { s with answers := s.answers ++ [a] }

def State.setPins (s : State) (p : Pins) : State := { s with pins := p }

/-! ### Faults -/

/-- raise Fault(code, info): FAULT is recorded unless an earlier fault stands there, BUSY is
cleared, and nothing else changes (R35, R221). -/
def State.takeFault (s : State) (c : FaultCode) (i : TrackId) (pos : Word16) : State :=
  (if s.fault.code = .none then s.setFault { code := c, track := i, pos := pos } else s).setBusy false

/-- Why a track's step has no result: it raises a fault of the spec, or the machine stops. -/
inductive Halt where
  | raised (c : FaultCode)
  | stuck (f : Fault)
  deriving DecidableEq, Repr

/-! ### Waveform generators -/

/-- The tonal phase advance, modulo 2^16 (R113). -/
def Track.advance (k : Track) : Track := { k with phase := k.phase + k.freqInc }

/-- The sawtooth's sample: the phase's high byte (R114). -/
def sawSample (a : Word16) : Sample := a.extractLsb' 8 8

/-- The triangle's sample: the exact value of the source's formula, truncated to 8 bits (R115). -/
def triSample (a : Word16) : Sample :=
  if a.toNat < 0x8000 then BitVec.ofNat 8 ((a.toNat * 2) / 256)
  else BitVec.ofNat 8 ((65536 - 2 * (a.toNat - 32768)) / 256)

/-- The square's sample: 175 while bit 15 of the phase is set, else 83 (R116). -/
def squareSample (a : Word16) : Sample := if a.getLsbD 15 then 175 else 83

/-- One iteration of the LFSR: the XOR of the two taps enters bit 0 of the register shifted left
(R119). -/
def lfsrShift (x : Word16) (a b : Nat) : Word16 :=
  (x <<< 1) ||| (BitVec.ofBool (x.getLsbD a ^^ x.getLsbD b)).setWidth 16

/-- `n` iterations of the LFSR. -/
def lfsrIterate (a b : Nat) : Nat → Word16 → Word16
  | 0, x => x
  | n + 1, x => lfsrIterate a b n (lfsrShift x a b)

/-- LFSR_CLOCK: 8 iterations (R119). -/
def lfsrClock (x : Word16) (a b : Nat) : Word16 := lfsrIterate a b 8 x

/-- NOISE_STEP with taps `a` and `b`: advance the hold counter, and past the threshold clock the
LFSR and clear the counter; the sample is the LFSR's low byte (R118). -/
def noiseStep (rom : Rom) (a b : Nat) (k : Track) : Track × Sample :=
  let c := k.phase + 1
  if noiseThreshold rom k.currentNote < c then
    let n := lfsrClock k.noise a b
    ({ k with noise := n, phase := 0 }, n.extractLsb' 0 8)
  else ({ k with phase := c }, k.noise.extractLsb' 0 8)

def sawStep (k : Track) : Track × Sample := (k.advance, sawSample k.phase)
def triStep (k : Track) : Track × Sample := (k.advance, triSample k.phase)
def squareStep (k : Track) : Track × Sample := (k.advance, squareSample k.phase)
def noise93Step (rom : Rom) (k : Track) : Track × Sample := noiseStep rom 14 8 k
def noise32kStep (rom : Rom) (k : Track) : Track × Sample := noiseStep rom 14 13 k

/-- GEN_DISPATCH; a reserved code has no generator (R141). -/
def genDispatch (rom : Rom) (k : Track) : Except Halt (Track × Sample) :=
  match k.gen.toNat with
  | 0 => .ok (sawStep k)
  | 1 => .ok (triStep k)
  | 2 => .ok (squareStep k)
  | 3 => .ok (noise93Step rom k)
  | 4 => .ok (noise32kStep rom k)
  | _ => .error (.stuck (.noGenerator k.gen))

/-! ### The track sequencer -/

/-- The decrement of REM that ends every sample-producing step (R149). -/
def Track.countDown (k : Track) : Track := { k with rem := k.rem - 1 }

/-- PRODUCE: silence on a silent wrap step or at increment 0, else the generator; then the
decrement (R149). -/
def produce (rom : Rom) (cfg : GlobalCfg) (wrapped : Bool) (k : Track) : Except Halt (Track × Sample) :=
  if wrapped && decide (cfg.wrapMode = .silent) then .ok (k.countDown, silence)
  else if k.freqInc = 0 then .ok (k.countDown, silence)
  else
    match genDispatch rom k with
    | .ok (k', v) => .ok (k'.countDown, v)
    | .error h => .error h

/-- NOTE: the checks in order BAD_PITCH, STREAM_OVERRUN, ZERO_DURATION, the register writes, and
the event's first sample (R144, R146). -/
def noteStep (rom : Rom) (cfg : GlobalCfg) (p : Pitch) (t : Byte) (k : Track) :
    Except Halt (Track × Sample) :=
  if h : p.toNat < 72 then
    if k.pos.toNat + 1 ≥ k.len.toNat then .error (.raised .streamOverrun)
    else if t = 0 then .error (.raised .zeroDuration)
    else
      produce rom cfg false
        { k with freqInc := freqRead rom ⟨p.toNat, h⟩, currentNote := p, pos := k.pos + 2,
                 rem := duration cfg t.toNat }
  else .error (.raised .badPitch)

/-- A NOTE whose tick byte lies outside the stream: that byte is not read (R222, R225). -/
def noteWithoutTick (p : Pitch) : Halt :=
  if p.toNat < 72 then .raised .streamOverrun else .raised .badPitch

/-- REST (R145, R146). -/
def restStep (rom : Rom) (cfg : GlobalCfg) (t : BitVec 7) (k : Track) : Except Halt (Track × Sample) :=
  if t = 0 then .error (.raised .zeroDuration)
  else
    produce rom cfg false
      { k with freqInc := 0, phase := 0, pos := k.pos + 1, rem := duration cfg t.toNat }

/-- END_LOOP and the wrap step's sample (R147). -/
def endLoopStep (rom : Rom) (cfg : GlobalCfg) (k : Track) : Except Halt (Track × Sample) :=
  produce rom cfg true { k with phase := 0, pos := 0, rem := 1 }

/-- END_STOP: the track stops; REM is not decremented (R148). -/
def endStopStep (k : Track) : Track × Sample := ({ k with active := false }, silence)

/-- Fetch, decode and perform the event at the cursor (R143). The last arm is not reached:
`fetchEvent` answers at least one byte, so a missing tick byte is the only decoding error. -/
def eventStep (rom : Rom) (cfg : GlobalCfg) (k : Track) : Except Halt (Track × Sample) :=
  match fetchEvent rom k with
  | .error a => .error (.stuck (.streamAddress a))
  | .ok bs =>
    match decodeEvent bs with
    | .ok (.note p t, _) => noteStep rom cfg p t k
    | .ok (.rest t, _) => restStep rom cfg t k
    | .error (.missingTick p) => .error (noteWithoutTick p)
    | .error _ => .error (.raised .streamOverrun)

/-- SEQ_STEP (R140, R141, R142). -/
def seqStep (rom : Rom) (cfg : GlobalCfg) (k : Track) : Except Halt (Track × Sample) :=
  if k.active then
    if k.rem = 0 then
      if k.pos = k.len then
        if k.loop then endLoopStep rom cfg k else .ok (endStopStep k)
      else eventStep rom cfg k
    else produce rom cfg false k
  else .ok (k, silence)

/-! ### The mixer -/

/-- A mix that was cut short: the track that was stepped, its cursor, and the reason. -/
structure MixHalt where
  track : Nat
  pos : Word16
  halt : Halt
  deriving DecidableEq, Repr

/-- The loop of MIX over the tracks from number `i` on, in ascending order: the tracks after the
step and the sum of their terms (R171). -/
def mixFrom (rom : Rom) (cfg : GlobalCfg) : Nat → List Track → Except MixHalt (List Track × Int)
  | _, [] => .ok ([], 0)
  | i, k :: ks =>
    match seqStep rom cfg k with
    | .error h => .error { track := i, pos := k.pos, halt := h }
    | .ok (k', v) =>
      match mixFrom rom cfg (i + 1) ks with
      | .error e => .error e
      | .ok (ks', acc) => .ok (k' :: ks', mixTerm cfg.attenExp v + acc)

/-- MIX: the tracks after it, and its sample (R171, R174). -/
def State.mixed (s : State) : Except MixHalt (List Track × Sample) :=
  match mixFrom s.rom s.cfg 0 s.tracks with
  | .ok (ts, acc) => .ok (ts, rebias acc)
  | .error e => .error e

/-- How an operation that steps tracks ends when a step has no result (R221). -/
def State.halted (s : State) (i : TrackId) (pos : Word16) : Halt → Host.Outcome State Fault Refusal
  | .raised c => .next (s.takeFault c i pos)
  | .stuck f => .fault f

/-- The registers of track `i` and the returned sample written (R12). -/
def State.put (s : State) (i : TrackId) (r : Track × Sample) : State :=
  (s.setTrack i r.1).setSample r.2

/-- A sub-operation of COMPUTE_COMMIT executed for track `i` alone. It is taken only while a
computation is in progress, for a track that exists and meets `taken`; otherwise nothing changes. -/
def State.onTrack (s : State) (i : TrackId) (taken : Track → Bool)
    (f : Track → Except Halt (Track × Sample)) : Host.Outcome State Fault Refusal :=
  match s.tracks[i.toNat]? with
  | none => .next s
  | some k =>
    if s.commitEnabled && taken k then
      match f k with
      | .ok r => .next (s.put i r)
      | .error h => s.halted i k.pos h
    else .next s

/-! ### Configuration and RESET -/

/-- The registers RESET and TRACK_INIT give a track configured with `c` (R197, R250). -/
def Track.init (seed : Word16) (c : TrackCfg) : Track :=
  { phase := 0, freqInc := 0, noise := seed, currentNote := 0, rem := 0, pos := 0,
    active := c.playing, loop := c.loopsOnEnd, gen := c.gen, base := c.base, len := c.len }

/-- The fault record after RESET (R35, R250). -/
def FaultReg.clear : FaultReg := { code := .none, track := 0, pos := 0 }

/-- The machine's check CFG_GEN of one record (R226 line 7, R197). -/
def genAccepted (c : TrackCfg) : Bool := decide (c.gen.toNat ≤ 4)

/-- The machine's check CFG_WINDOW of one record (R226 line 8, R197). -/
def windowAccepted (c : TrackCfg) : Bool := decide (c.base.toNat + c.len.toNat ≤ 65536)

/-- The entry the host presents for track `i`; an entry not presented reads as the zero record.
DESIGN CHOICE (log entry 9). -/
def Pins.cfgAt (p : Pins) (i : Nat) : TrackCfg := p.tracks.getD i TrackCfg.zero

/-- Entry `i` of a list of presented records replaced. -/
def setCfg : List TrackCfg → Nat → TrackCfg → List TrackCfg
  | [], 0, c => [c]
  | _ :: cs, 0, c => c :: cs
  | [], n + 1, c => TrackCfg.zero :: setCfg [] n c
  | d :: cs, n + 1, c => d :: setCfg cs n c

/-- The pins with generator code `g` presented for track `i`. -/
def Pins.withGen (p : Pins) (i : Nat) (g : BitVec 3) : Pins :=
  { p with tracks := setCfg p.tracks i { p.cfgAt i with gen := g } }

/-- The configurations of tracks 0 to N_TRACKS - 1 as presented (R9). -/
def Pins.bank (p : Pins) : List TrackCfg := (List.range p.global.nTracks).map p.cfgAt

/-- The checks of RESET, in order; the first that fails is the status (R226). -/
def Pins.check (p : Pins) : CfgStatus :=
  let g := p.global
  if ¬ (1 ≤ g.nTracks ∧ g.nTracks ≤ 256) then .nTracks
  else if ¬ g.attenExp ≤ 7 then .attenRange
  else if ¬ g.nTracks * (127 >>> g.attenExp) ≤ 127 then .attenPos
  else if ¬ g.nTracks * (128 >>> g.attenExp) ≤ 128 then .attenNeg
  else if ¬ 1 ≤ g.samplesPerTick then .sptZero
  else if ¬ 255 * g.samplesPerTick ≤ 2 ^ 32 - 1 then .sptOverflow
  else if !p.bank.all genAccepted then .gen
  else if !p.bank.all windowAccepted then .window
  else if g.noiseSeed.extractLsb' 0 15 = 0 then .seed
  else .accepted

/-- A track whose registers are undefined: every register a free value (R41). Log entry 8. -/
def Track.undefined (d i : Nat) : Track :=
  let w := Config.freeWord d i
  { phase := (w 0).setWidth 16, freqInc := (w 1).setWidth 16, noise := (w 2).setWidth 16,
    currentNote := (w 3).setWidth 7, rem := w 4, pos := (w 5).setWidth 16,
    active := (w 6).getLsbD 0, loop := (w 7).getLsbD 0, gen := (w 8).setWidth 3,
    base := (w 9).setWidth 16, len := (w 10).setWidth 16 }

/-- The track bank after RESET: configured, or undefined where the configuration is refused. -/
def State.bankAfterReset (s : State) : List Track :=
  if s.pins.check = .accepted then s.pins.bank.map (Track.init s.pins.global.noiseSeed)
  else (List.range s.pins.global.nTracks).map (Track.undefined s.draws)

/-- RESET: sample the configuration ports, check, and give every register its reset value (R250). -/
def State.doReset (s : State) : State :=
  { s with
    cfgStatus := s.pins.check
    held := silence
    ready := false
    busy := false
    fault := FaultReg.clear
    tracks := s.bankAfterReset
    cfg := s.pins.global
    resetDone := true
    draws := if s.pins.check = .accepted then s.draws else s.draws + 1 }

/-! ### TRACK_INIT and the status port -/

/-- TRACK_INIT's refusal condition (R197). -/
def State.initRefused (s : State) (i : TrackId) (c : TrackCfg) : Bool :=
  decide (s.cfg.nTracks ≤ i.toNat) || !genAccepted c || !windowAccepted c

/-- The status port (R38, R201). -/
structure StatusView where
  active : List Bool
  held : Sample
  ready : Bool
  /-- FAULT.code, 2 bits (R35). -/
  faultCode : BitVec 2
  /-- FAULT.track (R35). -/
  faultTrack : TrackId
  /-- FAULT.pos (R35). -/
  faultPos : Word16
  /-- CFG_STATUS, 4 bits (R36). -/
  cfgStatus : BitVec 4
  deriving DecidableEq, Repr

/-- What the host reads on the status port; reading it changes nothing (R38). -/
def State.status (s : State) : StatusView :=
  { active := s.tracks.map Track.active, held := s.held, ready := s.ready,
    faultCode := s.fault.code.bits, faultTrack := s.fault.track, faultPos := s.fault.pos,
    cfgStatus := s.cfgStatus.bits }

/-- A tone's frequency in hertz (R91). -/
def Track.toneHz (rom : Rom) (k : Track) : Rat := (k.freqInc.toNat * rom.sampleRate : Rat) / 65536

end Sys2Proof.Machine
end

