-- ==== Sys2Proof/Machine/Agents.lean ====
section
/-! DEFINITION. The three agents' moves, which operation each takes, and how a word of the opcode
table is placed so that the next step runs it (spec/00_scope.md R13, R15; spec/43_pipeline.md R196, R197;
spec/60_exceptions.md R242; spec/70_reset_and_hazards.md R256, R258). -/

namespace Sys2Proof.Machine

open Sys2Proof

/-- The moves that lie ahead: the schedule, and once it is used up a free value of finitely many
moves with the producer's turn after them. So the producer's turn always comes again, which is its
weak fairness: an operation of it that stays enabled is taken at that turn (R196). -/
def State.moves (s : State) : List Event :=
  match s.schedule with
  | e :: es => e :: es
  | [] => Config.freeMoves s.turn ++ [.produce]

/-- The next move. -/
def State.nextEvent (s : State) : Event := s.moves.headD .produce

/-- The move is used up. -/
def State.popEvent (s : State) : State :=
  { s with
    schedule := s.moves.tail
    turn := if s.schedule.isEmpty then s.turn + 1 else s.turn }

/-- The operation a move takes; none for a move of the host's lines and for an idle producer. -/
def State.operation (s : State) : Event → Option Instr
  | .tick => some .tick
  | .produce =>
    if s.commitEnabled then some .computeCommit
    else if s.startEnabled then some .computeStart
    else none
  | .rst => some .reset
  | .present _ _ => none
  | .request _ _ => none
  | .serve =>
    match s.waiting with
    | [] => none
    | r :: _ => if s.initEnabled then some (.trackInit r.track r.cfg) else none

/-- What a move does besides its operation: the host's lines change, a request joins the waiting
ones, a request that was taken leaves them. `s` is the state the move was chosen in. -/
def State.settle (s : State) (e : Event) (t : State) : State :=
  match e with
  | .present g ts => t.setPins { global := g, tracks := ts }
  | .request i c => { t with waiting := t.waiting ++ [{ track := i, cfg := c }] }
  | .serve => if s.initEnabled then { t with waiting := t.waiting.tail } else t
  | .tick => t
  | .produce => t
  | .rst => t

/-- The move `e` put first in the schedule. -/
def State.schedulingFirst (s : State) (e : Event) : State := { s with schedule := e :: s.schedule }

/-- Bytes placed in the note-stream memory from address `a` on: the host's load before RESET (R253),
no operation of the block. -/
def loadBytes (m : List Host.Cell) : Nat → List Byte → List Host.Cell
  | _, [] => m
  | a, b :: bs => loadBytes (Memory.write m a b) (a + 1) bs

/-- Track 0 replaced by `f` of it, and made if there is none. -/
def State.mapFirst (s : State) (f : Track → Track) : State :=
  match s.tracks with
  | [] => s.setTracks [f (Track.init s.cfg.noiseSeed TrackCfg.zero)]
  | k :: ks => s.setTracks (f k :: ks)

/-- A computation in progress whose COMMIT is the next move. -/
def State.aboutToCommit (s : State) : State :=
  State.schedulingFirst
    { s with resetDone := true, cfgStatus := .accepted, ready := true, busy := true } .produce

/-- The event bytes placed as the whole stream of track 0, which stands at its first event. -/
def State.withEvent (s : State) (bs : List Byte) : State :=
  State.aboutToCommit
    { s.mapFirst fun k =>
        { k with active := true, rem := 0, pos := 0, base := 0, len := BitVec.ofNat 16 bs.length } with
      rom := { s.rom with stream := loadBytes s.rom.stream 0 bs } }

/-- Track 0 in the middle of an audible note with generator code `g`. -/
def State.withGenerator (s : State) (g : BitVec 3) : State :=
  State.aboutToCommit
    (s.mapFirst fun k =>
      { k with active := true, rem := 1, gen := g,
               freqInc := if k.freqInc = 0 then 1 else k.freqInc })

/-- The state in which the next step runs the operation a code stands for. -/
def State.withCode (s : State) : Code → State
  | .stream _ bs => s.withEvent bs
  | .generator _ g =>
    if g.toNat ≤ 4 then s.withGenerator g
    else (s.setPins (s.pins.withGen 0 g)).schedulingFirst .rst
  | .sampleTick _ => { s with resetDone := true, cfgStatus := .accepted }.schedulingFirst .tick
  | .trackInit _ i c =>
    { s with resetDone := true, cfgStatus := .accepted, busy := false,
             waiting := { track := i, cfg := c } :: s.waiting }.schedulingFirst .serve
  | .rst _ => s.schedulingFirst .rst

end Sys2Proof.Machine
end

