-- ==== Sys2Proof/Machine/Generators.lean ====
section
/-! DEFINITION. The meanings of the generator codes (spec/40_generators.md R110 to R121;
spec/30_encoding.md R86). A generator invoked for a track writes its registers and returns a sample. -/

namespace Sys2Proof.Machine

open Sys2Proof

/-- SAW (R114). -/
def execSaw (i : TrackId) (s : State) : Host.Outcome State Fault Refusal :=
  s.onTrack i (Track.generates 0b000#3) fun k => .ok (sawStep k)

/-- TRI (R115). -/
def execTri (i : TrackId) (s : State) : Host.Outcome State Fault Refusal :=
  s.onTrack i (Track.generates 0b001#3) fun k => .ok (triStep k)

/-- SQUARE (R116). -/
def execSquare (i : TrackId) (s : State) : Host.Outcome State Fault Refusal :=
  s.onTrack i (Track.generates 0b010#3) fun k => .ok (squareStep k)

/-- NOISE93 (R120). -/
def execNoise93 (i : TrackId) (s : State) : Host.Outcome State Fault Refusal :=
  s.onTrack i (Track.generates 0b011#3) fun k => .ok (noise93Step s.rom k)

/-- NOISE32K (R121). -/
def execNoise32k (i : TrackId) (s : State) : Host.Outcome State Fault Refusal :=
  s.onTrack i (Track.generates 0b100#3) fun k => .ok (noise32kStep s.rom k)

/-- A RESET while the host presents generator code `g` for track `i`. -/
def State.resetWithGen (s : State) (i : TrackId) (g : BitVec 3) : State :=
  (s.setPins (s.pins.withGen i.toNat g)).doReset

/-- GEN_RESERVED_101: the configuration that carries the code is presented at RESET and refused
there (R86, R226). DESIGN CHOICE (log entry 10). -/
def execGenReserved101 (i : TrackId) (s : State) : Host.Outcome State Fault Refusal :=
  .next (s.resetWithGen i 0b101#3)

/-- GEN_RESERVED_110 (R86, R226). -/
def execGenReserved110 (i : TrackId) (s : State) : Host.Outcome State Fault Refusal :=
  .next (s.resetWithGen i 0b110#3)

/-- GEN_RESERVED_111 (R86, R226). -/
def execGenReserved111 (i : TrackId) (s : State) : Host.Outcome State Fault Refusal :=
  .next (s.resetWithGen i 0b111#3)

end Sys2Proof.Machine
end

