-- ==== Sys2Proof/Machine/Mixer.lean ====
section
/-! DEFINITION. The meaning of MIX (spec/42_mixer.md R170 to R178). -/

namespace Sys2Proof.Machine

open Sys2Proof

/-- MIX executed by itself inside a computation: every track is stepped and the mixed sample is
returned; a fault of a track abandons the enclosing computation (R171, R221). -/
def execMix (s : State) : Host.Outcome State Fault Refusal :=
  if s.commitEnabled then
    match s.mixed with
    | .ok (ts, v) => .next ((s.setTracks ts).setSample v)
    | .error e => s.halted (BitVec.ofNat 8 e.track) e.pos e.halt
  else .next s

end Sys2Proof.Machine
end

