-- ==== Sys2Proof/Machine/Pipeline.lean ====
section
/-! DEFINITION. The meanings of the port-level operations TICK, COMPUTE_START, COMPUTE_COMMIT,
TRACK_INIT and RESET (spec/43_pipeline.md R190 to R198; spec/70_reset_and_hazards.md R250). An operation
that is not enabled is not taken and changes nothing. -/

namespace Sys2Proof.Machine

open Sys2Proof

/-- TICK (R191). -/
def execTick (s : State) : Host.Outcome State Fault Refusal :=
  .next (if s.live then (s.dacWrite s.held).setReady true else s)

/-- COMPUTE_START (R193). -/
def execComputeStart (s : State) : Host.Outcome State Fault Refusal :=
  .next (if s.startEnabled then s.setBusy true else s)

/-- COMPUTE_COMMIT (R194). -/
def execComputeCommit (s : State) : Host.Outcome State Fault Refusal :=
  if s.commitEnabled then
    match s.mixed with
    | .ok (ts, v) => .next ((((s.setTracks ts).setHeld v).setReady false).setBusy false)
    | .error e => s.halted (BitVec.ofNat 8 e.track) e.pos e.halt
  else .next s

/-- TRACK_INIT(i, cfg) (R197, R198). -/
def execTrackInit (i : TrackId) (c : TrackCfg) (s : State) : Host.Outcome State Fault Refusal :=
  .next (if s.initEnabled then
    (if s.initRefused i c then s.answer .refused
     else (s.setTrack i (Track.init s.cfg.noiseSeed c)).answer .accepted)
  else s)

/-- RESET (R250). -/
def execReset (s : State) : Host.Outcome State Fault Refusal := .next s.doReset

end Sys2Proof.Machine
end

