-- ==== Sys2Proof/Machine/Sequencer.lean ====
section
/-! DEFINITION. The meanings of the stream events and the end-of-stream steps, each one whole
SEQ_STEP of one track (spec/41_sequencer.md R141 to R149). -/

namespace Sys2Proof.Machine

open Sys2Proof

/-- NOTE (R144). -/
def execNote (i : TrackId) (p : Pitch) (t : Byte) (s : State) : Host.Outcome State Fault Refusal :=
  s.onTrack i Track.atEvent (noteStep s.rom s.cfg p t)

/-- REST (R145). -/
def execRest (i : TrackId) (t : BitVec 7) (s : State) : Host.Outcome State Fault Refusal :=
  s.onTrack i Track.atEvent (restStep s.rom s.cfg t)

/-- END_LOOP (R147). -/
def execEndLoop (i : TrackId) (s : State) : Host.Outcome State Fault Refusal :=
  s.onTrack i Track.atLoopEnd (endLoopStep s.rom s.cfg)

/-- END_STOP (R148). -/
def execEndStop (i : TrackId) (s : State) : Host.Outcome State Fault Refusal :=
  s.onTrack i Track.atStopEnd fun k => .ok (endStopStep k)

end Sys2Proof.Machine
end

