-- ==== Sys2Proof/Machine/Dispatch.lean ====
section
/-! DEFINITION. One arm per constructor of Instr: the call of its meaning. -/

namespace Sys2Proof.Machine

open Sys2Proof

def exec (i : Instr) (s : State) : Host.Outcome State Fault Refusal :=
  match i with
  | .note tr p t => Sys2Proof.Machine.execNote tr p t s
  | .rest tr t => Sys2Proof.Machine.execRest tr t s
  | .saw tr => Sys2Proof.Machine.execSaw tr s
  | .tri tr => Sys2Proof.Machine.execTri tr s
  | .square tr => Sys2Proof.Machine.execSquare tr s
  | .noise93 tr => Sys2Proof.Machine.execNoise93 tr s
  | .noise32k tr => Sys2Proof.Machine.execNoise32k tr s
  | .genReserved101 tr => Sys2Proof.Machine.execGenReserved101 tr s
  | .genReserved110 tr => Sys2Proof.Machine.execGenReserved110 tr s
  | .genReserved111 tr => Sys2Proof.Machine.execGenReserved111 tr s
  | .endLoop tr => Sys2Proof.Machine.execEndLoop tr s
  | .endStop tr => Sys2Proof.Machine.execEndStop tr s
  | .mix => Sys2Proof.Machine.execMix s
  | .tick => Sys2Proof.Machine.execTick s
  | .computeStart => Sys2Proof.Machine.execComputeStart s
  | .computeCommit => Sys2Proof.Machine.execComputeCommit s
  | .trackInit tr c => Sys2Proof.Machine.execTrackInit tr c s
  | .reset => Sys2Proof.Machine.execReset s

end Sys2Proof.Machine
end

