-- ==== Sys2Proof/Machine/Step.lean ====
section
/-! DEFINITION. One step: the agent whose move is next takes its operation (spec/00_scope.md R13, R15). -/

namespace Sys2Proof.Machine

open Sys2Proof

/-- One move of one agent. -/
def step (s : State) : Host.Outcome State Fault Refusal :=
  match s.operation s.nextEvent with
  | none => .next (s.settle s.nextEvent s.popEvent)
  | some i =>
    match exec i s with
    | .next t => .next (s.settle s.nextEvent t.popEvent)
    | .fault f => .fault f
    | .refused r => .refused r

/-- The state in which the next step fetches and runs the word `w` of the opcode table. -/
def State.withFetchWord (s : State) (nbits w : Nat) : State := s.withCode (tableCode nbits w)

end Sys2Proof.Machine
end

