-- ==== Sys2Proof/Safety.lean ====
section
/-! DEFINITION. What the claims say of a run: the invariant of the block, the configuration ranges it
rests on, the samples a track plays, the launch premise of well-formed streams, and fair runs
(spec/60_exceptions.md R226; spec/10_state.md R26, R36, R41; spec/43_pipeline.md R196; spec/70_reset_and_hazards.md R254). -/

namespace Sys2Proof.Machine

open Sys2Proof

/-- Lines 1 to 6 of the configuration checks (R226). -/
abbrev configInRange (g : GlobalCfg) : Prop :=
  1 ≤ g.nTracks ∧ g.nTracks ≤ 256 ∧ g.attenExp ≤ 7 ∧
  g.nTracks * (127 >>> g.attenExp) ≤ 127 ∧ g.nTracks * (128 >>> g.attenExp) ≤ 128 ∧
  1 ≤ g.samplesPerTick ∧ 255 * g.samplesPerTick ≤ 2 ^ 32 - 1

/-- A seed or LFSR value that does not lock the LFSR (R119, R226 line 9). -/
abbrev lfsrAlive (x : Word16) : Prop := x.extractLsb' 0 15 ≠ 0

/-- What holds of every track of a running block: the cursor within its stream, the stream within
the address space, one of the five generators, a table pitch, and an LFSR that is not locked
(R24, R26, R62, R86, R119). -/
abbrev Track.ok (k : Track) : Prop :=
  k.pos.toNat ≤ k.len.toNat ∧ k.base.toNat + k.len.toNat ≤ 65536 ∧ k.gen.toNat ≤ 4 ∧
  k.currentNote.toNat ≤ 71 ∧ lfsrAlive k.noise

/-- The invariant of the block. Of a block that was never RESET it says only that the note-stream
memory is in canonical form. -/
abbrev State.Inv (s : State) : Prop :=
  Memory.wf s.rom.stream = true ∧
  (s.resetDone = true →
    (s.cfgStatus = .accepted →
      configInRange s.cfg ∧ lfsrAlive s.cfg.noiseSeed ∧ s.tracks.length = s.cfg.nTracks ∧
      (∀ k ∈ s.tracks, k.ok) ∧
      (s.fault.code ≠ .none → s.fault.track.toNat < s.cfg.nTracks)) ∧
    (s.busy = true → s.ready = true ∧ s.fault.code = .none) ∧
    (s.ready = true → s.dac.getLast? = some s.held) ∧
    (s.cfgStatus ≠ .accepted →
      s.held = silence ∧ s.ready = false ∧ s.busy = false ∧ s.fault = FaultReg.clear))

/-- Track `i` has registers `k`, and a computation is in progress: the operations of
COMPUTE_COMMIT can be taken for the track (R194). -/
abbrev State.computing (s : State) (i : TrackId) (k : Track) : Prop :=
  s.commitEnabled = true ∧ s.tracks[i.toNat]? = some k

/-- `n` steps of a track by itself, and the samples it produced. -/
def playTrack (rom : Rom) (cfg : GlobalCfg) : Nat → Track → Except Halt (Track × List Sample)
  | 0, k => .ok (k, [])
  | n + 1, k =>
    match seqStep rom cfg k with
    | .error h => .error h
    | .ok (k', v) =>
      match playTrack rom cfg n k' with
      | .error h => .error h
      | .ok (k'', vs) => .ok (k'', v :: vs)

/-- `n` samples of the event a track is in, with no boundary among them: as one event of that full
length would play them (R95, R149). -/
def produceFor (rom : Rom) (cfg : GlobalCfg) : Nat → Track → Except Halt (Track × List Sample)
  | 0, k => .ok (k, [])
  | n + 1, k =>
    match produce rom cfg false k with
    | .error h => .error h
    | .ok (k', v) =>
      match produceFor rom cfg n k' with
      | .error h => .error h
      | .ok (k'', vs) => .ok (k'', v :: vs)

/-- The bytes of a track's stream (R30, R62). -/
def streamBytes (rom : Rom) (k : Track) : List Byte :=
  (List.range k.len.toNat).map fun j => Memory.lookup rom.stream (k.base.toNat + j)

/-- At a boundary, the bytes at the track's cursor begin with the events `es` (R94, R95). -/
abbrev Track.standsBefore (rom : Rom) (k : Track) (es : List StreamEvent) : Prop :=
  k.active = true ∧ k.rem = 0 ∧ k.base.toNat + k.len.toNat ≤ 65536 ∧
  assemble es <+: (streamBytes rom k).drop k.pos.toNat

/-- The track's stream is well formed, and its cursor stands between two events of it (R254). -/
abbrev Track.playsWellFormed (rom : Rom) (k : Track) : Prop :=
  streamWellFormed (streamBytes rom k) = true ∧
  streamWellFormed ((streamBytes rom k).drop k.pos.toNat) = true

/-- The state in which the operation that made the track step would have left the block. -/
def State.afterTrack (s : State) (i : TrackId) (k : Track) :
    Except Halt (Track × Sample) → Host.Outcome State Fault Refusal
  | .ok r => .next (s.put i r)
  | .error h => s.halted i k.pos h

/-- The operations of COMPUTE_COMMIT that act on one track, and the track. -/
def trackOperation : Instr → Option TrackId
  | .note i _ _ => some i
  | .rest i _ => some i
  | .saw i => some i
  | .tri i => some i
  | .square i => some i
  | .noise93 i => some i
  | .noise32k i => some i
  | .endLoop i => some i
  | .endStop i => some i
  | .genReserved101 _ => none
  | .genReserved110 _ => none
  | .genReserved111 _ => none
  | .mix => none
  | .tick => none
  | .computeStart => none
  | .computeCommit => none
  | .trackInit _ _ => none
  | .reset => none

/-- The operations that perform a RESET. -/
def isReset : Instr → Bool
  | .note _ _ _ => false
  | .rest _ _ => false
  | .saw _ => false
  | .tri _ => false
  | .square _ => false
  | .noise93 _ => false
  | .noise32k _ => false
  | .genReserved101 _ => true
  | .genReserved110 _ => true
  | .genReserved111 _ => true
  | .endLoop _ => false
  | .endStop _ => false
  | .mix => false
  | .tick => false
  | .computeStart => false
  | .computeCommit => false
  | .trackInit _ _ => false
  | .reset => true

/-- An endless run: every state is the step of the one before (R16). -/
def IsRun (σ : Nat → State) : Prop := ∀ n, step (σ n) = .next (σ (n + 1))

/-- Weak fairness of the producer for its operation `op`: if from some point on its turn would always
take `op`, then `op` is taken at that point or later (R196). -/
def WeaklyFair (σ : Nat → State) (op : Instr) : Prop :=
  ∀ n, (∀ m, n ≤ m → (σ m).operation .produce = some op) →
    ∃ m, n ≤ m ∧ (σ m).nextEvent = .produce ∧ (σ m).operation (σ m).nextEvent = some op

/-- `n` calls of a noise generator, and its samples. -/
def playNoise (rom : Rom) (a b : Nat) : Nat → Track → Track × List Sample
  | 0, k => (k, [])
  | n + 1, k =>
    let r := noiseStep rom a b k
    let rs := playNoise rom a b n r.1
    (rs.1, r.2 :: rs.2)

/-- `n` clocks of an LFSR. -/
def lfsrClocks (a b : Nat) : Nat → Word16 → Word16
  | 0, x => x
  | n + 1, x => lfsrClocks a b n (lfsrClock x a b)

end Sys2Proof.Machine
end

