-- ==== Sys2Proof/Certificates/Slice0/Obligations.lean ====
section
/-! DEFINITION. The statements for the provers. Each docstring names the rule of spec/ it states; a
clause that rests on the model's own choice names the log entry. -/

open Sys2Proof Sys2Proof.Machine

/-! ### Encodings (spec/30_encoding.md) -/

/-- Decoding an operation's code gives the operation back, with every operand at every value, legal
or not. -/
def Obligations.DecodeOfEncodeIsIdentity : Prop :=
  ∀ (i : Instr) (c : Code), encode i = some c → decode c = .ok i

/-- A code that decodes is the code of what it decodes to, so each code has one meaning and no bit of
it is dropped. -/
def Obligations.EncodeOfDecodeIsIdentity : Prop :=
  ∀ (c : Code) (i : Instr), decode c = .ok i → encode i = some c

/-- Words written out from the tables of R82, R83 and R86. -/
def Obligations.WrittenOutWordsDecode : Prop :=
  decode (.stream 3 [0b00111100#8, 0b00001010#8]) = .ok (.note 3 60#7 10#8) ∧
  decode (.stream 3 [0b10000101#8]) = .ok (.rest 3 5#7) ∧
  decode (.stream 0 [0b01000111#8, 0b11111111#8]) = .ok (.note 0 71#7 255#8) ∧
  decode (.generator 1 0b010#3) = .ok (.square 1) ∧
  decode (.generator 1 0b100#3) = .ok (.noise32k 1) ∧
  decode (.sampleTick 1#1) = .ok .tick

/-- The opcode map (R87): every value of an event's first byte is accounted for. -/
def Obligations.FirstByteDecidesTheEvent : Prop :=
  ∀ (b0 b1 : Byte) (rom : Rom) (cfg : GlobalCfg) (k : Track),
    (b0.toNat ≤ 0x47 → ∃ p : Pitch, p.toNat = b0.toNat ∧
      decodeEvent [b0, b1] = .ok (.note p b1, []) ∧
      (b1 ≠ 0 → (StreamEvent.note p b1).wellFormed = true) ∧
      (b1 = 0 → k.pos.toNat + 1 < k.len.toNat →
        noteStep rom cfg p b1 k = .error (.raised .zeroDuration))) ∧
    (0x48 ≤ b0.toNat ∧ b0.toNat ≤ 0x7F → ∃ p : Pitch, p.toNat = b0.toNat ∧
      decodeEvent [b0, b1] = .ok (.note p b1, []) ∧
      noteStep rom cfg p b1 k = .error (.raised .badPitch)) ∧
    (b0.toNat = 0x80 → decodeEvent [b0] = .ok (.rest 0, []) ∧
      restStep rom cfg 0 k = .error (.raised .zeroDuration)) ∧
    (0x81 ≤ b0.toNat → ∃ t : BitVec 7, t.toNat = b0.toNat - 0x80 ∧
      decodeEvent [b0] = .ok (.rest t, []) ∧ (StreamEvent.rest t).wellFormed = true)

/-- The expansions of R95: the quotient's full events and then the remainder's; they are legal, of the
pitch named, and their ticks add up; and a track whose stream holds one plays the samples and leaves
the registers of one event of the full length, but for POS, which stands after the expansion's own
bytes. -/
def Obligations.PseudoInstructionsExpandExactly : Prop :=
  (∀ t : Nat,
    restStar t = List.replicate (t / 127) (.rest 127#7) ++
      (if t % 127 = 0 then [] else [.rest (BitVec.ofNat 7 (t % 127))]) ∧
    ∀ p : Pitch, noteStar p t = List.replicate (t / 255) (.note p 255#8) ++
      (if t % 255 = 0 then [] else [.note p (BitVec.ofNat 8 (t % 255))])) ∧
  (∀ t : Nat,
    ((restStar t).all StreamEvent.wellFormed = true ∧
      ((restStar t).map fun e => match e with | .rest n => n.toNat | .note _ _ => 0).sum = t ∧
      ∀ e ∈ restStar t, ∃ n, e = .rest n) ∧
    ∀ p : Pitch, p.toNat ≤ 71 →
      (noteStar p t).all StreamEvent.wellFormed = true ∧
      ((noteStar p t).map fun e => match e with | .note _ n => n.toNat | .rest _ => 0).sum = t ∧
      ∀ e ∈ noteStar p t, ∃ n, e = .note p n) ∧
  ∀ (rom : Rom) (cfg : GlobalCfg) (k : Track) (t : Nat), configInRange cfg → 1 ≤ t →
    (k.standsBefore rom (restStar t) →
      playTrack rom cfg (t * cfg.samplesPerTick) k =
        .ok ({ k with freqInc := 0, phase := 0, rem := 0,
                      pos := k.pos + BitVec.ofNat 16 (assemble (restStar t)).length },
          List.replicate (t * cfg.samplesPerTick) 128#8)) ∧
    ∀ (p : Pitch) (h : p.toNat < 72), k.gen.toNat ≤ 4 → k.standsBefore rom (noteStar p t) →
      ∃ k' vs,
        produceFor rom cfg (t * cfg.samplesPerTick)
          { k with freqInc := rom.freq[p.toNat], currentNote := p,
                   rem := BitVec.ofNat 32 (t * cfg.samplesPerTick) } = .ok (k', vs) ∧
        playTrack rom cfg (t * cfg.samplesPerTick) k =
          .ok ({ k' with pos := k.pos + BitVec.ofNat 16 (assemble (noteStar p t)).length }, vs)

/-! ### Waveform generators (spec/40_generators.md) -/

/-- SAW (R114): the phase's high byte, then the phase advances modulo 2^16; nothing else changes. -/
def Obligations.SawReturnsHighByte : Prop :=
  ∀ (s : State) (i : TrackId) (k : Track),
    s.computing i k → k.active = true → k.freqInc ≠ 0 → k.gen = 0b000#3 →
    exec (.saw i) s =
      .next (s.put i ({ k with phase := BitVec.ofNat 16 (k.phase.toNat + k.freqInc.toNat) },
        BitVec.ofNat 8 (k.phase.toNat / 256)))

/-- TRI (R115): the exact value of the formula truncated to 8 bits, then the advance. -/
def Obligations.TriReturnsRamp : Prop :=
  ∀ (s : State) (i : TrackId) (k : Track),
    s.computing i k → k.active = true → k.freqInc ≠ 0 → k.gen = 0b001#3 →
    exec (.tri i) s =
      .next (s.put i ({ k with phase := BitVec.ofNat 16 (k.phase.toNat + k.freqInc.toNat) },
        if k.phase.toNat < 0x8000 then BitVec.ofNat 8 ((k.phase.toNat * 2) >>> 8)
        else BitVec.ofNat 8 ((65536 - 2 * (k.phase.toNat - 32768)) >>> 8)))

/-- The triangle's corner cases (R115): symmetry for every phase 1..0x7FFF, and 0 at the peak. -/
def Obligations.TriangleIsSymmetric : Prop :=
  (∀ a : Word16, 1 ≤ a.toNat → a.toNat ≤ 0x7FFF →
    triSample a = triSample (BitVec.ofNat 16 (65536 - a.toNat)) ∧
    (triSample a).toNat = (2 * a.toNat) / 256) ∧
  triSample 0x8000#16 = 0

/-- SQUARE (R116): 175 in the upper half of the phases, 83 in the lower, then the advance. -/
def Obligations.SquareReturnsTwoLevels : Prop :=
  ∀ (s : State) (i : TrackId) (k : Track),
    s.computing i k → k.active = true → k.freqInc ≠ 0 → k.gen = 0b010#3 →
    exec (.square i) s =
      .next (s.put i ({ k with phase := BitVec.ofNat 16 (k.phase.toNat + k.freqInc.toNat) },
        if 0x8000 ≤ k.phase.toNat then 175#8 else 83#8))

/-- NOISE93 (R118, R120): count; past the threshold clock the LFSR with taps 14 and 8 and clear the
counter; return the LFSR's low byte. -/
def Obligations.Noise93CountsThenClocks : Prop :=
  ∀ (s : State) (i : TrackId) (k : Track),
    s.computing i k → k.active = true → k.freqInc ≠ 0 → k.gen = 0b011#3 →
    exec (.noise93 i) s =
      .next (s.put i
        (if (noiseThreshold s.rom k.currentNote).toNat < (k.phase.toNat + 1) % 65536 then
          ({ k with noise := lfsrClock k.noise 14 8, phase := 0 },
            BitVec.ofNat 8 (lfsrClock k.noise 14 8).toNat)
        else ({ k with phase := BitVec.ofNat 16 (k.phase.toNat + 1) }, BitVec.ofNat 8 k.noise.toNat)))

/-- NOISE32K (R118, R121): the same with taps 14 and 13. -/
def Obligations.Noise32kCountsThenClocks : Prop :=
  ∀ (s : State) (i : TrackId) (k : Track),
    s.computing i k → k.active = true → k.freqInc ≠ 0 → k.gen = 0b100#3 →
    exec (.noise32k i) s =
      .next (s.put i
        (if (noiseThreshold s.rom k.currentNote).toNat < (k.phase.toNat + 1) % 65536 then
          ({ k with noise := lfsrClock k.noise 14 13, phase := 0 },
            BitVec.ofNat 8 (lfsrClock k.noise 14 13).toNat)
        else ({ k with phase := BitVec.ofNat 16 (k.phase.toNat + 1) }, BitVec.ofNat 8 k.noise.toNat)))

/-- One LFSR iteration (R119): the XOR of the taps enters bit 0, every other bit comes from the bit
below it, and bit 15 is shifted out. -/
def Obligations.LfsrShiftsTapsIn : Prop :=
  ∀ (x : Word16) (a b : Nat),
    (lfsrShift x a b).getLsbD 0 = (x.getLsbD a ^^ x.getLsbD b) ∧
    (∀ j : Nat, j < 15 → (lfsrShift x a b).getLsbD (j + 1) = x.getLsbD j) ∧
    lfsrClock x a b = lfsrIterate a b 8 x

/-- The LFSR locks exactly when bits 14..0 are zero, with either pair of taps (R119). -/
def Obligations.LfsrNeverLocksWhenAlive : Prop :=
  ∀ (x : Word16) (b : Nat), b = 8 ∨ b = 13 →
    (lfsrAlive x → lfsrAlive (lfsrClock x 14 b)) ∧ (¬ lfsrAlive x → lfsrClock x 14 b = 0)

/-- NOISE93's LFSR repeats every 93 clocks, from its first clock on (R120). -/
def Obligations.Noise93LfsrRepeatsEvery93Clocks : Prop :=
  ∀ (x : Word16) (n : Nat), 1 ≤ n → lfsrClocks 14 8 (n + 93) x = lfsrClocks 14 8 n x

/-- With a constant threshold T the LFSR is held for T calls and clocked on the next (R118). The
counter is 16 bits wide, so this is so for T below 0xFFFF. -/
def Obligations.NoiseHoldsForThresholdCalls : Prop :=
  ∀ (rom : Rom) (a b : Nat) (k : Track) (T : Nat),
    (noiseThreshold rom k.currentNote).toNat = T → T < 65535 → k.phase = 0 →
    (∀ n, n ≤ T → playNoise rom a b n k =
      ({ k with phase := BitVec.ofNat 16 n }, List.replicate n (k.noise.setWidth 8))) ∧
    playNoise rom a b (T + 1) k =
      ({ k with noise := lfsrClock k.noise a b, phase := 0 },
        List.replicate T (k.noise.setWidth 8) ++ [(lfsrClock k.noise a b).setWidth 8])

/-- FREQ_INC is no input of the noise computation (R122). -/
def Obligations.NoiseIgnoresFrequency : Prop :=
  ∀ (rom : Rom) (a b : Nat) (k : Track) (f : Word16) (n : Nat),
    (playNoise rom a b n { k with freqInc := f }).2 = (playNoise rom a b n k).2 ∧
    (playNoise rom a b n { k with freqInc := f }).1.noise = (playNoise rom a b n k).1.noise

/-- No generator runs for an inactive or a resting track (R110). That a generator which is not invoked
leaves the state as it is is the model's reading (log entry 2). -/
def Obligations.GeneratorsAreGated : Prop :=
  ∀ (s : State) (i : TrackId) (k : Track) (g : Instr),
    g ∈ [.saw i, .tri i, .square i, .noise93 i, .noise32k i] →
    s.tracks[i.toNat]? = some k → (k.active = false ∨ k.freqInc = 0) →
    exec g s = .next s

/-- A reserved generator code presented for a track the configuration has is refused with CFG_GEN,
and the pipeline stands as after RESET (R86, R226). That the code's meaning is a RESET which
presents it is the model's choice (log entry 10). -/
def Obligations.ReservedGeneratorCodesAreRefused : Prop :=
  ∀ (s : State) (i : TrackId) (g : Instr),
    g ∈ [.genReserved101 i, .genReserved110 i, .genReserved111 i] →
    configInRange s.pins.global → i.toNat < s.pins.global.nTracks →
    ∃ t, exec g s = .next t ∧ t.cfgStatus = .gen ∧ t.held = 128#8 ∧ t.ready = false ∧
      t.busy = false ∧ t.fault = { code := .none, track := 0, pos := 0 } ∧ t.live = false ∧
      t.rom = s.rom ∧ t.dac = s.dac

/-! ### Track sequencer (spec/41_sequencer.md) -/

/-- A legal NOTE (R144, R146, R149): the increment is the table's entry, the note and the duration
are stored, the cursor advances by 2, PHASE is not reset, and the first sample is produced. -/
def Obligations.NoteResolvesAndPlays : Prop :=
  ∀ (s : State) (i : TrackId) (k : Track) (p : Pitch) (t : Byte) (h : p.toNat < 72),
    s.computing i k → k.atEvent = true → k.pos.toNat + 1 < k.len.toNat → t ≠ 0 → k.gen.toNat ≤ 4 →
    ∃ k' v,
      exec (.note i p t) s = .next (s.put i (k'.countDown, v)) ∧
      (s.rom.freq[p.toNat] = 0 →
        v = 128#8 ∧
        k' = { k with freqInc := 0, currentNote := p, pos := k.pos + 2,
                      rem := BitVec.ofNat 32 (t.toNat * s.cfg.samplesPerTick) }) ∧
      (s.rom.freq[p.toNat] ≠ 0 →
        genDispatch s.rom
          { k with freqInc := s.rom.freq[p.toNat], currentNote := p, pos := k.pos + 2,
                   rem := BitVec.ofNat 32 (t.toNat * s.cfg.samplesPerTick) } = .ok (k', v))

/-- A NOTE's checks, in order (R144, R222 to R225): each fault is recorded with the track and the
NOTE's own offset, BUSY is cleared, and nothing else changes. That these inputs fault, how the fault
is recorded and the order of the checks are the spec's own decisions D20 to D24 (log entry 19). -/
def Obligations.NoteFaultsInOrder : Prop :=
  ∀ (s : State) (i : TrackId) (k : Track) (p : Pitch) (t : Byte),
    s.computing i k → k.atEvent = true → s.fault.code = .none →
    (71 < p.toNat →
      exec (.note i p t) s =
        .next { s with fault := { code := .badPitch, track := i, pos := k.pos }, busy := false }) ∧
    (p.toNat ≤ 71 → k.len.toNat ≤ k.pos.toNat + 1 →
      exec (.note i p t) s =
        .next { s with fault := { code := .streamOverrun, track := i, pos := k.pos }, busy := false }) ∧
    (p.toNat ≤ 71 → k.pos.toNat + 1 < k.len.toNat → t = 0 →
      exec (.note i p t) s =
        .next { s with fault := { code := .zeroDuration, track := i, pos := k.pos }, busy := false })

/-- REST (R145, R224): increment and phase 0, one byte consumed, 128 returned, the duration less the
sample just produced; a REST of 0 ticks raises ZERO_DURATION instead and changes nothing else. -/
def Obligations.RestResolvesSilently : Prop :=
  ∀ (s : State) (i : TrackId) (k : Track) (t : BitVec 7), s.computing i k → k.atEvent = true →
    (t ≠ 0 →
      exec (.rest i t) s =
        .next (s.put i
          ({ k with freqInc := 0, phase := 0, pos := k.pos + 1,
                    rem := BitVec.ofNat 32 (t.toNat * s.cfg.samplesPerTick) - 1 }, 128#8))) ∧
    (t = 0 → s.fault.code = .none →
      exec (.rest i t) s =
        .next { s with fault := { code := .zeroDuration, track := i, pos := k.pos }, busy := false })

/-- END_LOOP in both wrap modes (R147). -/
def Obligations.EndLoopRestartsTheStream : Prop :=
  ∀ (s : State) (i : TrackId) (k : Track),
    s.computing i k → k.active = true → k.rem = 0 → k.pos = k.len → k.loop = true →
    (s.cfg.wrapMode = .silent ∨ k.freqInc = 0 →
      exec (.endLoop i) s = .next (s.put i ({ k with phase := 0, pos := 0, rem := 0 }, 128#8))) ∧
    (s.cfg.wrapMode = .stale → k.freqInc ≠ 0 → k.gen.toNat ≤ 4 →
      ∃ k' v, genDispatch s.rom { k with phase := 0, pos := 0, rem := 1 } = .ok (k', v) ∧
        exec (.endLoop i) s = .next (s.put i ({ k' with rem := 0 }, v)))

/-- The END_STOP step (R148): ACTIVE is cleared, 128 returned, nothing else changed. The 128 and the
unchanged REM are the spec's own decision D19 (log entry 19). That the track then stays silent is stated
by StoppedTrackStaysSilent and SequencerWithinAnEvent. -/
def Obligations.EndStopSilencesTheTrack : Prop :=
  ∀ (s : State) (i : TrackId) (k : Track),
    s.computing i k → k.active = true → k.rem = 0 → k.pos = k.len → k.loop = false →
    exec (.endStop i) s = .next (s.put i ({ k with active := false }, 128#8))

/-- The sequencer's operations are taken only where R141 takes them; elsewhere nothing changes. That
an operation which is not taken leaves the state as it is is the model's reading (log entry 2). -/
def Obligations.SequencerOperationsAreGated : Prop :=
  ∀ (s : State) (i : TrackId) (k : Track) (p : Pitch) (t : Byte) (r : BitVec 7),
    s.tracks[i.toNat]? = some k →
    (k.active = false ∨ k.rem ≠ 0 ∨ k.pos = k.len →
      exec (.note i p t) s = .next s ∧ exec (.rest i r) s = .next s) ∧
    (k.active = false ∨ k.rem ≠ 0 ∨ k.pos ≠ k.len ∨ k.loop = false → exec (.endLoop i) s = .next s) ∧
    (k.active = false ∨ k.rem ≠ 0 ∨ k.pos ≠ k.len ∨ k.loop = true → exec (.endStop i) s = .next s)

/-- SEQ_STEP away from a note boundary (R142, R149): an inactive track returns 128 and keeps every
register (the spec's own decision D39); inside an event REM counts down by one, with silence at increment 0. -/
def Obligations.SequencerWithinAnEvent : Prop :=
  ∀ (rom : Rom) (cfg : GlobalCfg) (k : Track),
    (k.active = false → seqStep rom cfg k = .ok (k, 128#8)) ∧
    (k.active = true → k.rem ≠ 0 → k.freqInc = 0 →
      seqStep rom cfg k = .ok ({ k with rem := k.rem - 1 }, 128#8)) ∧
    (k.active = true → k.rem ≠ 0 → k.freqInc ≠ 0 → ∀ k' v, genDispatch rom k = .ok (k', v) →
      seqStep rom cfg k = .ok ({ k' with rem := k.rem - 1 }, v))

/-- At an event the sequencer fetches the bytes at BASE + POS, decodes them, and does what the
decoded operation does (R143); a NOTE whose tick byte lies outside the stream, the only bytes that do
not decode, raises BAD_PITCH or else STREAM_OVERRUN (R144, R222, R223, R225); at the end of the stream
it does END_LOOP or END_STOP (R88). The generator GEN_DISPATCH runs, in every step of SEQ_STEP that
runs one, is the one the track's code GEN decodes to (R29, R86, R141, R149). The codes and the faults
are the spec's own decisions D13, D21, D22 and D24 (log entry 19). -/
def Obligations.SequencerRunsTheDecodedEvent : Prop :=
  ∀ (s : State) (i : TrackId) (k : Track), s.computing i k →
    (∀ bs x, k.atEvent = true → fetchEvent s.rom k = .ok bs → decode (.stream i bs) = .ok x →
      exec x s = s.afterTrack i k (seqStep s.rom s.cfg k)) ∧
    (∀ bs e, k.atEvent = true → fetchEvent s.rom k = .ok bs → decode (.stream i bs) = .error e →
      ∃ p, e = .missingTick p ∧ seqStep s.rom s.cfg k =
        .error (.raised (if 71 < p.toNat then .badPitch else .streamOverrun))) ∧
    (k.atLoopEnd = true → exec (.endLoop i) s = s.afterTrack i k (seqStep s.rom s.cfg k)) ∧
    (k.atStopEnd = true → exec (.endStop i) s = s.afterTrack i k (seqStep s.rom s.cfg k)) ∧
    (∀ x, k.active = true → k.freqInc ≠ 0 → k.gen.toNat ≤ 4 → decode (.generator i k.gen) = .ok x →
      exec x s = s.afterTrack i k (genDispatch s.rom k))

/-- The fetch reads exactly the bytes of the stream memory at the cursor (R61, R143). -/
def Obligations.FetchReadsTheCursor : Prop :=
  ∀ (rom : Rom) (k : Track), k.pos.toNat < k.len.toNat → k.base.toNat + k.len.toNat ≤ 65536 →
    ∃ b0, memRead rom (k.base.toNat + k.pos.toNat) = some b0 ∧
      (0x80 ≤ b0.toNat → fetchEvent rom k = .ok [b0]) ∧
      (b0.toNat < 0x80 → k.len.toNat ≤ k.pos.toNat + 1 → fetchEvent rom k = .ok [b0]) ∧
      (b0.toNat < 0x80 → k.pos.toNat + 1 < k.len.toNat →
        ∃ b1, memRead rom (k.base.toNat + k.pos.toNat + 1) = some b1 ∧
          fetchEvent rom k = .ok [b0, b1])

/-- The duration law (R151): a NOTE of `t` ticks gives t × SAMPLES_PER_TICK samples, the resolving
step's among them, and then the track is at a note boundary past the event. -/
def Obligations.NoteLastsItsDuration : Prop :=
  ∀ (rom : Rom) (cfg : GlobalCfg) (k : Track) (p : Pitch) (t : Byte),
    configInRange cfg → p.toNat ≤ 71 → t ≠ 0 → k.active = true → k.gen.toNat ≤ 4 →
    k.pos.toNat + 1 < k.len.toNat →
    ∃ k1 v, noteStep rom cfg p t k = .ok (k1, v) ∧
      ∀ n, n < t.toNat * cfg.samplesPerTick →
        ∃ k' vs, playTrack rom cfg n k1 = .ok (k', vs) ∧ vs.length = n ∧ k'.active = true ∧
          k'.pos = k.pos + 2 ∧ k'.freqInc = k1.freqInc ∧
          k'.rem.toNat = t.toNat * cfg.samplesPerTick - 1 - n

/-- The duration law for a REST (R145, R151): silent for exactly t × SAMPLES_PER_TICK samples. -/
def Obligations.RestLastsItsDuration : Prop :=
  ∀ (rom : Rom) (cfg : GlobalCfg) (k : Track) (t : BitVec 7),
    configInRange cfg → t ≠ 0 → k.active = true →
    ∃ k1, restStep rom cfg t k = .ok (k1, 128#8) ∧
      ∀ n, n < t.toNat * cfg.samplesPerTick →
        playTrack rom cfg n k1 =
          .ok ({ k1 with rem := BitVec.ofNat 32 (t.toNat * cfg.samplesPerTick - 1 - n) },
            List.replicate n 128#8)

/-- The cursor never runs past its bound, and the window, generator and LOOP never change (R154). -/
def Obligations.CursorStaysInTheWindow : Prop :=
  ∀ (rom : Rom) (cfg : GlobalCfg) (k k' : Track) (v : Sample),
    k.pos.toNat ≤ k.len.toNat → seqStep rom cfg k = .ok (k', v) →
    k'.pos.toNat ≤ k'.len.toNat ∧ k'.len = k.len ∧ k'.base = k.base ∧ k'.gen = k.gen ∧
      k'.loop = k.loop

/-- A non-looping track at its stream's end gives 128 for ever and never re-activates (R148, R153). -/
def Obligations.StoppedTrackStaysSilent : Prop :=
  ∀ (rom : Rom) (cfg : GlobalCfg) (k : Track) (n : Nat),
    k.active = true → k.rem = 0 → k.pos = k.len → k.loop = false →
    playTrack rom cfg (n + 1) k = .ok ({ k with active := false }, List.replicate (n + 1) 128#8)

/-- A well-formed stream never faults, and the cursor stays between two of its events (R254). -/
def Obligations.WellFormedStreamNeverFaults : Prop :=
  ∀ (rom : Rom) (cfg : GlobalCfg) (k : Track), k.ok → k.playsWellFormed rom →
    ∃ k' v, seqStep rom cfg k = .ok (k', v) ∧ k'.ok ∧ k'.playsWellFormed rom

/-! ### Mixer (spec/42_mixer.md) -/

/-- The attenuation shift is the floor of the quotient by 2^e (R173): the rounding is the spec's own
decision D7 (log entry 19). -/
def Obligations.AttenuationRoundsDown : Prop :=
  ∀ (e : Nat) (v : Sample), mixTerm e v = Int.floor (((v.toNat : Rat) - 128) / 2 ^ e)

/-- MIX steps every track and returns 128 plus the sum of the attenuated offsets (R171, R174). -/
def Obligations.MixSumsEveryTrack : Prop :=
  ∀ (s : State) (rs : List (Track × Sample)), s.commitEnabled = true →
    s.tracks.map (seqStep s.rom s.cfg) = rs.map .ok →
    exec .mix s =
      .next ((s.setTracks (rs.map Prod.fst)).setSample
        (BitVec.ofInt 8
          (128 + (rs.map fun r => ((r.2.toNat : Int) - 128) >>> s.cfg.attenExp).sum)))

/-- In an accepted configuration the sum never leaves 0..255, whatever the tracks return (R175). -/
def Obligations.MixNeverOverflows : Prop :=
  ∀ (g : GlobalCfg) (vs : List Sample), configInRange g → vs.length = g.nTracks →
    0 ≤ 128 + (vs.map (mixTerm g.attenExp)).sum ∧ 128 + (vs.map (mixTerm g.attenExp)).sum ≤ 255

/-- A block whose tracks are all silent outputs 128, in any number of tracks (R176). -/
def Obligations.SilentTracksMixToSilence : Prop :=
  ∀ (s : State) (rs : List (Track × Sample)), s.commitEnabled = true →
    s.tracks.map (seqStep s.rom s.cfg) = rs.map .ok → (∀ r ∈ rs, r.2 = 128#8) →
    exec .mix s = .next ((s.setTracks (rs.map Prod.fst)).setSample 128#8)

/-- The lowest-numbered faulting track is the one recorded, under the fault's code 1 to 3 on the status
port; no track register, HELD or READY changes (R221, R225, R38). -/
def Obligations.LowestFaultingTrackIsRecorded : Prop :=
  ∀ (s : State) (j : Nat) (k : Track) (c : FaultCode),
    s.commitEnabled = true → s.fault.code = .none → s.tracks[j]? = some k →
    seqStep s.rom s.cfg k = .error (.raised c) →
    (∀ m k', m < j → s.tracks[m]? = some k' → ∃ r, seqStep s.rom s.cfg k' = .ok r) →
    exec .computeCommit s =
      .next { s with fault := { code := c, track := BitVec.ofNat 8 j, pos := k.pos }, busy := false } ∧
    exec .mix s = exec .computeCommit s ∧
    ∀ t, exec .computeCommit s = .next t →
      (c, t.status.faultCode.toNat) ∈
        [(FaultCode.streamOverrun, 1), (FaultCode.badPitch, 2), (FaultCode.zeroDuration, 3)] ∧
      t.status.faultTrack.toNat = j % 256 ∧ t.status.faultPos = k.pos

/-! ### Pipeline and host operations (spec/43_pipeline.md, spec/70_reset_and_hazards.md) -/

/-- TICK (R191): HELD goes to the DAC, READY is set, and nothing else changes; no flag and no fault
masks it. -/
def Obligations.TickWritesHeldAndSetsReady : Prop :=
  ∀ s : State, s.resetDone = true → s.cfgStatus = .accepted →
    exec .tick s = .next { s with dac := s.dac ++ [s.held], ready := true }

/-- COMPUTE_START (R193): BUSY is set when READY is set, BUSY clear, no fault and the configuration
accepted, and READY is not cleared (the spec's own decision D27). That nothing changes where it is not
enabled is the model's reading (log entry 2). -/
def Obligations.ComputeStartSetsBusy : Prop :=
  ∀ s : State,
    (s.resetDone = true → s.cfgStatus = .accepted → s.ready = true → s.busy = false →
      s.fault.code = .none → exec .computeStart s = .next { s with busy := true }) ∧
    (s.ready = false ∨ s.busy = true ∨ s.fault.code ≠ .none ∨ s.cfgStatus ≠ .accepted →
      exec .computeStart s = .next s)

/-- COMPUTE_COMMIT (R194): the mix is stored in HELD, READY and BUSY are cleared and every track has
stepped, together. -/
def Obligations.ComputeCommitStoresTheMix : Prop :=
  ∀ (s : State) (rs : List (Track × Sample)),
    s.resetDone = true → s.cfgStatus = .accepted → s.busy = true →
    s.tracks.map (seqStep s.rom s.cfg) = rs.map .ok →
    exec .computeCommit s =
      .next { s with
        tracks := rs.map Prod.fst,
        held := BitVec.ofInt 8
          (128 + (rs.map fun r => ((r.2.toNat : Int) - 128) >>> s.cfg.attenExp).sum),
        ready := false, busy := false }

/-- A COMMIT completes on well-formed streams, from every state of the invariant: no fault, every
track still in order. -/
def Obligations.CommitCompletesOnWellFormedStreams : Prop :=
  ∀ s : State, s.Inv → s.commitEnabled = true → (∀ k ∈ s.tracks, k.playsWellFormed s.rom) →
    ∃ ts v, exec .computeCommit s =
        .next { s with tracks := ts, held := v, ready := false, busy := false } ∧
      ∀ k ∈ ts, k.playsWellFormed s.rom

/-- TRACK_INIT, accepted (R197): the track's registers are those RESET would give it, the host is
told, nothing else changes. -/
def Obligations.TrackInitLoadsOneTrack : Prop :=
  ∀ (s : State) (i : TrackId) (c : TrackCfg),
    s.resetDone = true → s.cfgStatus = .accepted → s.busy = false →
    i.toNat < s.cfg.nTracks → c.gen.toNat ≤ 4 → c.base.toNat + c.len.toNat ≤ 65536 →
    exec (.trackInit i c) s =
      .next { s with
        tracks := s.tracks.set i.toNat
          { base := c.base, len := c.len, gen := c.gen, loop := c.loopsOnEnd, active := c.playing,
            pos := 0, rem := 0, freqInc := 0, phase := 0, currentNote := 0,
            noise := s.cfg.noiseSeed },
        answers := s.answers ++ [.accepted] }

/-- TRACK_INIT, refused or held off (R197, R198, R256; the spec's own decision D31): no register
changes; a refusal is told to the host and recorded nowhere else. That a request which is not enabled
changes nothing is the model's reading (log entry 2), and the list it waits in the model's choice (log
entry 16). -/
def Obligations.TrackInitRefusesOrWaits : Prop :=
  ∀ (s : State) (i : TrackId) (c : TrackCfg),
    (s.resetDone = true → s.cfgStatus = .accepted → s.busy = false →
      (s.cfg.nTracks ≤ i.toNat ∨ 4 < c.gen.toNat ∨ 65536 < c.base.toNat + c.len.toNat) →
      exec (.trackInit i c) s = .next { s with answers := s.answers ++ [.refused] }) ∧
    (s.busy = true → exec (.trackInit i c) s = .next s) ∧
    (s.busy = true → ∀ es, s.schedule = .serve :: es → s.waiting = [{ track := i, cfg := c }] →
      step s = .next { s with schedule := es })

/-- RESET (R250): from every state, the status is the result of the checks, the pipeline registers
get their reset values (the spec's own decisions D25, D26) and, if the configuration is accepted, so
does every track register. What a refused RESET leaves in the track registers is not stated: it is a
free value (R41, log entry 8). That a RESET leaves the lists of DAC values and answers (log entry 15)
and the waiting requests (log entry 16) as they are is the model's choice. -/
def Obligations.ResetGivesEveryRegisterItsValue : Prop :=
  ∀ s : State,
    (s.pins.check = .accepted →
      exec .reset s =
        .next { s with
          cfgStatus := .accepted, held := 128#8, ready := false, busy := false,
          fault := { code := .none, track := 0, pos := 0 },
          resetDone := true, cfg := s.pins.global,
          tracks := (List.range s.pins.global.nTracks).map fun j =>
            { base := (s.pins.cfgAt j).base, len := (s.pins.cfgAt j).len,
              gen := (s.pins.cfgAt j).gen, loop := (s.pins.cfgAt j).loopsOnEnd,
              active := (s.pins.cfgAt j).playing,
              pos := 0, rem := 0, freqInc := 0, phase := 0, currentNote := 0,
              noise := s.pins.global.noiseSeed } }) ∧
    (s.pins.check ≠ .accepted →
      ∃ t, exec .reset s = .next t ∧ t.cfgStatus = s.pins.check ∧ t.held = 128#8 ∧
        t.ready = false ∧ t.busy = false ∧ t.fault = { code := .none, track := 0, pos := 0 } ∧
        t.rom = s.rom ∧ t.dac = s.dac ∧ t.answers = s.answers ∧ t.live = false)

/-- RESET's checks, in order; the status is the first that fails, and the status port then shows its
code 1 to 9, or 0 (R226, R38). -/
def Obligations.ConfigurationChecksInOrder : Prop :=
  (∀ (p : Pins) (N e spt : Nat), N = p.global.nTracks → e = p.global.attenExp →
    spt = p.global.samplesPerTick →
    p.check =
      if N < 1 ∨ 256 < N then .nTracks
      else if 7 < e then .attenRange
      else if 127 < N * (127 / 2 ^ e) then .attenPos
      else if 128 < N * (128 / 2 ^ e) then .attenNeg
      else if spt < 1 then .sptZero
      else if 2 ^ 32 - 1 < 255 * spt then .sptOverflow
      else if ∃ j < N, 4 < (p.cfgAt j).gen.toNat then .gen
      else if ∃ j < N, 65536 < (p.cfgAt j).base.toNat + (p.cfgAt j).len.toNat then .window
      else if p.global.noiseSeed.toNat % 2 ^ 15 = 0 then .seed
      else .accepted) ∧
  ∀ s t : State, exec .reset s = .next t →
    (s.pins.check, t.status.cfgStatus.toNat) ∈
      [(CfgStatus.accepted, 0), (CfgStatus.nTracks, 1), (CfgStatus.attenRange, 2),
       (CfgStatus.attenPos, 3), (CfgStatus.attenNeg, 4), (CfgStatus.sptZero, 5),
       (CfgStatus.sptOverflow, 6), (CfgStatus.gen, 7), (CfgStatus.window, 8), (CfgStatus.seed, 9)]

/-- After a refused RESET, and before the first one, the only enabled operation is RESET (R36, R41, R226,
R252; the spec's own decisions D3 and D44, log entry 19). That an operation which is not enabled changes
nothing is the model's reading (log entry 2), and so is the bit that says whether a first RESET has
happened (log entry 7). That the operations of the reserved generator codes perform a RESET, for which
isReset leaves them out, is the model's choice (log entry 10). -/
def Obligations.OnlyResetLeavesARefusedBlock : Prop :=
  ∀ (s : State) (i : Instr), s.resetDone = false ∨ s.cfgStatus ≠ .accepted → isReset i = false →
    exec i s = .next s

/-- The state after reset (R251), with the values the spec gives, and what the status port shows of
any state (R38, R201). The configuration State.reset was given is the model's choice (log entry 5). -/
def Obligations.StateAfterReset : Prop :=
  State.reset.held = 128#8 ∧ State.reset.ready = false ∧ State.reset.busy = false ∧
  State.reset.fault = { code := .none, track := 0, pos := 0 } ∧ State.reset.cfgStatus.bits = 0 ∧
  (∀ k ∈ State.reset.tracks, k.pos = 0 ∧ k.rem = 0 ∧ k.freqInc = 0 ∧ k.phase = 0 ∧
    k.currentNote = 0 ∧ k.noise = State.reset.cfg.noiseSeed) ∧
  State.reset.tracks.length = State.reset.cfg.nTracks ∧
  ∀ s : State,
    (∀ (j : Nat) (k : Track), s.tracks[j]? = some k → s.status.active[j]? = some k.active) ∧
    s.status.active.length = s.tracks.length ∧ s.status.held = s.held ∧ s.status.ready = s.ready ∧
    (s.fault.code, s.status.faultCode) ∈
      [(FaultCode.none, 0#2), (FaultCode.streamOverrun, 1#2), (FaultCode.badPitch, 2#2),
       (FaultCode.zeroDuration, 3#2)] ∧
    s.status.faultTrack = s.fault.track ∧ s.status.faultPos = s.fault.pos

/-- A TICK during a computation is lost (R195): it writes HELD, which in every state of the invariant
is the value the last TICK before it wrote, and after the COMMIT no request stands. -/
def Obligations.TickDuringComputationIsLost : Prop :=
  ∀ (s t : State) (es : List Event), s.resetDone = true → s.cfgStatus = .accepted →
    s.busy = true → s.fault.code = .none →
    s.schedule = .tick :: .produce :: es →
    Host.Core.run Sys2Proof.core 2 s = .next t → t.fault.code = .none →
    t.dac = s.dac ++ [s.held] ∧ t.ready = false ∧ t.busy = false ∧
    (s.Inv → s.dac.getLast? = some s.held)

/-- One eager round (R200): the TICK writes the sample held before it, and the round's mix is what
the next TICK will write. -/
def Obligations.EagerRoundHasOneSampleOfLatency : Prop :=
  ∀ (s : State) (es : List Event) (rs : List (Track × Sample)),
    s.resetDone = true → s.cfgStatus = .accepted → s.busy = false → s.fault.code = .none →
    s.schedule = .tick :: .produce :: .produce :: .tick :: es →
    s.tracks.map (seqStep s.rom s.cfg) = rs.map .ok →
    ∃ t, Host.Core.run Sys2Proof.core 4 s = .next t ∧
      t.tracks = rs.map Prod.fst ∧
      t.dac = s.dac ++ [s.held, rebias (rs.map fun r => mixTerm s.cfg.attenExp r.2).sum]

/-! ### The whole machine -/

/-- A step makes the next move: the first of the schedule, or, when the schedule is used up, of a free
list with the producer's turn at its end. It leaves the state exec gives for the move's operation, with
the move used up and a served request taken off its queue, and stops where exec stops. A move without
an operation changes the configuration lines, adds a request, or changes nothing. The schedule and the
queue are the model's form (log entries 3, 4 and 16). -/
def Obligations.StepRunsTheScheduledOperation : Prop :=
  ∀ (s : State) (e : Event) (es : List Event) (n : Nat),
    ((s.schedule = e :: es ∧ n = s.turn) ∨
      (s.schedule = [] ∧ Config.freeMoves s.turn ++ [.produce] = e :: es ∧ n = s.turn + 1)) →
    (∀ i t, s.operation e = some i → exec i s = .next t →
      step s = .next { t with
        schedule := es, turn := n,
        waiting := if e = .serve then s.waiting.tail else s.waiting }) ∧
    (∀ i f, s.operation e = some i → exec i s = .fault f → step s = .fault f) ∧
    (∀ g ts, e = .present g ts →
      step s = .next { s with schedule := es, turn := n, pins := { global := g, tracks := ts } }) ∧
    (∀ i c, e = .request i c →
      step s = .next { s with
        schedule := es, turn := n, waiting := s.waiting ++ [{ track := i, cfg := c }] }) ∧
    (e = .produce ∨ e = .serve → s.operation e = none →
      step s = .next { s with schedule := es, turn := n })

/-- What each agent's move stands for (R15, R191, R193, R194, R197, R242, R250), and that the
producer's operations are taken at last (its weak fairness, R196): a computation in progress comes to
an end, and an enabled COMPUTE_START does not stand for ever. The moves are the model's form (log
entries 3 and 4); that the oldest of several waiting requests is served is its choice (log
entry 16). -/
def Obligations.AgentsTakeTheirOperations : Prop :=
  ∀ s : State,
    s.operation .tick = some .tick ∧ s.operation .rst = some .reset ∧
    (s.live = true → s.busy = true → s.operation .produce = some .computeCommit) ∧
    (s.live = true → s.busy = false → s.ready = true → s.fault.code = .none →
      s.operation .produce = some .computeStart) ∧
    (s.busy = false → s.ready = false ∨ s.fault.code ≠ .none → s.operation .produce = none) ∧
    (∀ i c ws, s.live = true → s.busy = false → s.waiting = { track := i, cfg := c } :: ws →
      s.operation .serve = some (.trackInit i c)) ∧
    (s.Inv → s.commitEnabled = true →
      ∃ n t, Host.Core.run Sys2Proof.core n s = .next t ∧ t.busy = false) ∧
    (s.Inv → s.startEnabled = true →
      ∃ n t, Host.Core.run Sys2Proof.core n s = .next t ∧ t.startEnabled = false)

/-- No operation changes the two memories or the other constants of the run: every byte of
note-stream memory and every table entry reads as before (R37, R63). -/
def Obligations.NoStepWritesMemory : Prop :=
  ∀ (s t : State), step s = .next t →
    (∀ a, memRead t.rom a = memRead s.rom a) ∧ (∀ p, freqRead t.rom p = freqRead s.rom p) ∧
    t.rom = s.rom

/-- The configuration changes only by RESET (R258): another move keeps it, and what the host
presents in between has no effect on an operation. This is the spec's own decision D3 (log
entry 19). -/
def Obligations.ConfigurationChangesOnlyAtReset : Prop :=
  ∀ (s t : State), step s = .next t → s.nextEvent ≠ .rst →
    t.cfg = s.cfg ∧ t.cfgStatus = s.cfgStatus ∧ t.resetDone = s.resetDone ∧
    ∀ p : Pins, ∃ t', step (s.setPins p) = .next t' ∧ t'.tracks = t.tracks ∧ t'.held = t.held ∧
      t'.ready = t.ready ∧ t'.busy = t.busy ∧ t'.dac = t.dac ∧ t'.fault = t.fault ∧
      t'.cfg = t.cfg ∧ t'.cfgStatus = t.cfgStatus ∧ t'.answers = t.answers

/-- The frame of an operation on one track: the other tracks, the pipeline registers, the
configuration, the ports and all of memory keep their values; within the track ACTIVE is cleared by
END_STOP alone, and BASE, LEN, GEN and LOOP by none. BUSY and FAULT change only when it faults. -/
def Obligations.TrackOperationFrame : Prop :=
  ∀ (x : Instr) (i : TrackId) (s t : State), trackOperation x = some i → exec x s = .next t →
    (∀ j, j ≠ i.toNat → t.tracks[j]? = s.tracks[j]?) ∧
    (∀ k, s.tracks[i.toNat]? = some k → ∃ k', t.tracks[i.toNat]? = some k' ∧ k'.base = k.base ∧
      k'.len = k.len ∧ k'.gen = k.gen ∧ k'.loop = k.loop ∧ (x ≠ .endStop i → k'.active = k.active)) ∧
    t.held = s.held ∧ t.ready = s.ready ∧ t.cfgStatus = s.cfgStatus ∧ t.resetDone = s.resetDone ∧
    t.cfg = s.cfg ∧ t.dac = s.dac ∧ t.answers = s.answers ∧ t.pins = s.pins ∧
    t.waiting = s.waiting ∧ t.schedule = s.schedule ∧ t.turn = s.turn ∧ t.draws = s.draws ∧
    (∀ a, memRead t.rom a = memRead s.rom a) ∧
    ((t.busy = s.busy ∧ t.fault = s.fault) ∨ (t.busy = false ∧ t.tracks = s.tracks))

/-- A recorded fault stays until a RESET, and no computation starts while it stands (R221). -/
def Obligations.FaultIsSticky : Prop :=
  ∀ (s t : State), s.fault.code ≠ .none → s.nextEvent ≠ .rst → step s = .next t →
    t.fault = s.fault ∧ (s.busy = false → t.busy = false ∧ t.held = s.held)

/-- A track's next registers depend on no other track (R20): two blocks that agree on the track, the
memories and the configuration agree on the track after a COMMIT that completes in both. -/
def Obligations.TracksDoNotInterfere : Prop :=
  ∀ (s s' t t' : State) (j : Nat),
    s.commitEnabled = true → s'.commitEnabled = true → s.rom = s'.rom → s.cfg = s'.cfg →
    s.tracks[j]? = s'.tracks[j]? → s.fault.code = .none → s'.fault.code = .none →
    exec .computeCommit s = .next t → exec .computeCommit s' = .next t' →
    t.fault.code = .none → t'.fault.code = .none → t.tracks[j]? = t'.tracks[j]?

/-- The machine's own two stops are the only ones, and each needs a track no accepted RESET and no
accepted TRACK_INIT leaves: a reserved generator code, a window past the address space, or a cursor
past the window. No
operation is ever refused. The stops are the model's choice (log entry 13). -/
def Obligations.OnlyImpossibleTracksStop : Prop :=
  ∀ (i : Instr) (s : State),
    (∀ r, exec i s ≠ .refused r) ∧
    ∀ f, exec i s = .fault f → s.commitEnabled = true ∧ ∃ k ∈ s.tracks,
      (4 < k.gen.toNat ∧ f = .noGenerator k.gen) ∨
      ((65536 < k.base.toNat + k.len.toNat ∨ k.len.toNat < k.pos.toNat) ∧
        ∃ a, 65536 ≤ a ∧ (a = k.base.toNat + k.pos.toNat ∨ a = k.base.toNat + k.pos.toNat + 1) ∧
          f = .streamAddress a)

/-- The invariant holds after reset. -/
def Obligations.InvariantHoldsAtReset : Prop := State.reset.Inv

/-- Every step keeps the invariant: the memory in canonical form; and in a running block the
configuration in range, exactly N_TRACKS tracks, every cursor in its window, every generator legal,
no LFSR locked, BUSY only with READY and without a fault, READY only when the last value the DAC
got is HELD; a refused block silent. -/
def Obligations.EveryStepKeepsTheInvariant : Prop :=
  ∀ (s t : State), s.Inv → step s = .next t → t.Inv

/-- From every state of the invariant a step answers a next state: no fault of the machine and no
refusal is ever reached. -/
def Obligations.InvariantStatesNeverStop : Prop :=
  ∀ s : State, s.Inv → ∃ t, step s = .next t
end

