-- ==== Sys2Proof/Laws/Memory.lean ====
section
/-! SUPPORT. The laws of the note-stream memory: a write keeps the canonical form, a read after a
write, and the canonical form of what the host loads. -/

namespace Sys2Proof.Machine

open Sys2Proof

/-- A canonical list starting higher is canonical starting lower. -/
theorem Memory.wfFrom_mono {lo lo' : Nat} {m : List Host.Cell} (h : lo ≤ lo')
    (hm : Memory.wfFrom lo' m = true) : Memory.wfFrom lo m = true := by
  cases m with
  | nil => rfl
  | cons c cs =>
    simp only [Memory.wfFrom, Bool.and_eq_true, decide_eq_true_eq] at hm ⊢
    exact ⟨⟨⟨by omega, hm.1.1.2⟩, hm.1.2⟩, hm.2⟩

/-- A write of an address of the space keeps the canonical form. -/
theorem Memory.wfFrom_write {lo a : Nat} {m : List Host.Cell} (v : Byte) (hlo : lo ≤ a)
    (ha : a < 65536) (hm : Memory.wfFrom lo m = true) :
    Memory.wfFrom lo (Memory.write m a v) = true := by
  induction m generalizing lo with
  | nil => by_cases hv : v = Memory.unlisted <;> simp [Memory.write, Memory.wfFrom, *]
  | cons c cs ih =>
    obtain ⟨b, w⟩ := c
    simp only [Memory.wfFrom, Bool.and_eq_true, decide_eq_true_eq] at hm
    obtain ⟨⟨⟨h1, h2⟩, h3⟩, h4⟩ := hm
    unfold Memory.write
    split_ifs with hab hv heq hv
    · simp [Memory.wfFrom, *]
    · simp [Memory.wfFrom, *, show a + 1 ≤ b by omega]
    · exact Memory.wfFrom_mono (by omega) h4
    · subst heq; simp [Memory.wfFrom, *]
    · simp [Memory.wfFrom, h1, h2, h3, ih (by omega : b + 1 ≤ a) h4]

/-- A write of an address of the space keeps the canonical form of the memory. -/
theorem Memory.wf_write {m : List Host.Cell} {a : Nat} (v : Byte) (ha : a < 65536)
    (hm : Memory.wf m = true) : Memory.wf (Memory.write m a v) = true :=
  Memory.wfFrom_write v (Nat.zero_le a) ha hm

/-- An address below every listed one reads as unlisted. -/
theorem Memory.lookup_of_lt {lo a : Nat} {m : List Host.Cell} (hm : Memory.wfFrom lo m = true)
    (h : a < lo) : Memory.lookup m a = Memory.unlisted := by
  induction m generalizing lo with
  | nil => rfl
  | cons c cs ih =>
    obtain ⟨b, w⟩ := c
    simp only [Memory.wfFrom, Bool.and_eq_true, decide_eq_true_eq] at hm
    rw [Memory.lookup, if_neg (by omega), ih hm.2 (by omega)]

/-- What a read after a write to a canonical memory gives: the byte written at its address, and at
every other address what was there. -/
theorem Memory.lookup_write {lo a : Nat} {m : List Host.Cell} (v : Byte) (x : Nat)
    (hm : Memory.wfFrom lo m = true) :
    Memory.lookup (Memory.write m a v) x = if x = a then v else Memory.lookup m x := by
  induction m generalizing lo with
  | nil =>
    by_cases hv : v = Memory.unlisted <;> by_cases hx : x = a <;>
      simp [Memory.write, Memory.lookup, *]
  | cons c cs ih =>
    obtain ⟨b, w⟩ := c
    simp only [Memory.wfFrom, Bool.and_eq_true, decide_eq_true_eq] at hm
    obtain ⟨-, h4⟩ := hm
    have low : ∀ y, y ≤ b → Memory.lookup cs y = Memory.unlisted :=
      fun y hy => Memory.lookup_of_lt h4 (by omega)
    by_cases hx : x = a
    · subst hx
      rw [if_pos rfl]
      unfold Memory.write
      split_ifs with hxb hv heq hv
      · rw [Memory.lookup, if_neg (by omega), low x (by omega), hv]
      · simp [Memory.lookup]
      · rw [low x (by omega), hv]
      · simp [Memory.lookup]
      · rw [Memory.lookup, if_neg heq, ih h4, if_pos rfl]
    · rw [if_neg hx]
      unfold Memory.write
      split_ifs with hab hv heq hv
      · rfl
      · rw [Memory.lookup, if_neg hx]
      · rw [Memory.lookup, if_neg (heq ▸ hx)]
      · subst heq; simp [Memory.lookup, hx]
      · simp only [Memory.lookup, ih h4, if_neg hx]

/-- Loading bytes inside the space keeps the canonical form. -/
theorem loadBytes_wf {m : List Host.Cell} {a : Nat} {bs : List Byte} (h : a + bs.length ≤ 65536)
    (hm : Memory.wf m = true) : Memory.wf (loadBytes m a bs) = true := by
  induction bs generalizing m a with
  | nil => exact hm
  | cons b bs ih =>
    simp only [List.length_cons] at h
    exact ih (by omega) (Memory.wf_write b (by omega) hm)

/-- The reset memory is in canonical form. -/
theorem reset_memory_wf : Memory.wf State.reset.rom.stream = true := rfl

end Sys2Proof.Machine
end

