-- ==== Sys2Proof/Laws/State.lean ====
section
/-! SUPPORT. One lemma per field per update of the state, and the fields of a taken fault, so that no
proof unfolds a record update. -/

namespace Sys2Proof.Machine

open Sys2Proof

/-! ### setTracks -/

@[simp] theorem State.setTracks_tracks (s : State) (ts : List Track) : (s.setTracks ts).tracks = ts := rfl
@[simp] theorem State.setTracks_held (s : State) (ts : List Track) : (s.setTracks ts).held = s.held := rfl
@[simp] theorem State.setTracks_ready (s : State) (ts : List Track) : (s.setTracks ts).ready = s.ready := rfl
@[simp] theorem State.setTracks_busy (s : State) (ts : List Track) : (s.setTracks ts).busy = s.busy := rfl
@[simp] theorem State.setTracks_fault (s : State) (ts : List Track) : (s.setTracks ts).fault = s.fault := rfl
@[simp] theorem State.setTracks_cfgStatus (s : State) (ts : List Track) : (s.setTracks ts).cfgStatus = s.cfgStatus := rfl
@[simp] theorem State.setTracks_resetDone (s : State) (ts : List Track) : (s.setTracks ts).resetDone = s.resetDone := rfl
@[simp] theorem State.setTracks_cfg (s : State) (ts : List Track) : (s.setTracks ts).cfg = s.cfg := rfl
@[simp] theorem State.setTracks_rom (s : State) (ts : List Track) : (s.setTracks ts).rom = s.rom := rfl
@[simp] theorem State.setTracks_dac (s : State) (ts : List Track) : (s.setTracks ts).dac = s.dac := rfl
@[simp] theorem State.setTracks_answers (s : State) (ts : List Track) : (s.setTracks ts).answers = s.answers := rfl
@[simp] theorem State.setTracks_sample (s : State) (ts : List Track) : (s.setTracks ts).sample = s.sample := rfl
@[simp] theorem State.setTracks_pins (s : State) (ts : List Track) : (s.setTracks ts).pins = s.pins := rfl
@[simp] theorem State.setTracks_waiting (s : State) (ts : List Track) : (s.setTracks ts).waiting = s.waiting := rfl
@[simp] theorem State.setTracks_schedule (s : State) (ts : List Track) : (s.setTracks ts).schedule = s.schedule := rfl
@[simp] theorem State.setTracks_turn (s : State) (ts : List Track) : (s.setTracks ts).turn = s.turn := rfl
@[simp] theorem State.setTracks_draws (s : State) (ts : List Track) : (s.setTracks ts).draws = s.draws := rfl

/-! ### setSample -/

@[simp] theorem State.setSample_tracks (s : State) (v : Sample) : (s.setSample v).tracks = s.tracks := rfl
@[simp] theorem State.setSample_held (s : State) (v : Sample) : (s.setSample v).held = s.held := rfl
@[simp] theorem State.setSample_ready (s : State) (v : Sample) : (s.setSample v).ready = s.ready := rfl
@[simp] theorem State.setSample_busy (s : State) (v : Sample) : (s.setSample v).busy = s.busy := rfl
@[simp] theorem State.setSample_fault (s : State) (v : Sample) : (s.setSample v).fault = s.fault := rfl
@[simp] theorem State.setSample_cfgStatus (s : State) (v : Sample) : (s.setSample v).cfgStatus = s.cfgStatus := rfl
@[simp] theorem State.setSample_resetDone (s : State) (v : Sample) : (s.setSample v).resetDone = s.resetDone := rfl
@[simp] theorem State.setSample_cfg (s : State) (v : Sample) : (s.setSample v).cfg = s.cfg := rfl
@[simp] theorem State.setSample_rom (s : State) (v : Sample) : (s.setSample v).rom = s.rom := rfl
@[simp] theorem State.setSample_dac (s : State) (v : Sample) : (s.setSample v).dac = s.dac := rfl
@[simp] theorem State.setSample_answers (s : State) (v : Sample) : (s.setSample v).answers = s.answers := rfl
@[simp] theorem State.setSample_sample (s : State) (v : Sample) : (s.setSample v).sample = v := rfl
@[simp] theorem State.setSample_pins (s : State) (v : Sample) : (s.setSample v).pins = s.pins := rfl
@[simp] theorem State.setSample_waiting (s : State) (v : Sample) : (s.setSample v).waiting = s.waiting := rfl
@[simp] theorem State.setSample_schedule (s : State) (v : Sample) : (s.setSample v).schedule = s.schedule := rfl
@[simp] theorem State.setSample_turn (s : State) (v : Sample) : (s.setSample v).turn = s.turn := rfl
@[simp] theorem State.setSample_draws (s : State) (v : Sample) : (s.setSample v).draws = s.draws := rfl

/-! ### setHeld -/

@[simp] theorem State.setHeld_tracks (s : State) (v : Sample) : (s.setHeld v).tracks = s.tracks := rfl
@[simp] theorem State.setHeld_held (s : State) (v : Sample) : (s.setHeld v).held = v := rfl
@[simp] theorem State.setHeld_ready (s : State) (v : Sample) : (s.setHeld v).ready = s.ready := rfl
@[simp] theorem State.setHeld_busy (s : State) (v : Sample) : (s.setHeld v).busy = s.busy := rfl
@[simp] theorem State.setHeld_fault (s : State) (v : Sample) : (s.setHeld v).fault = s.fault := rfl
@[simp] theorem State.setHeld_cfgStatus (s : State) (v : Sample) : (s.setHeld v).cfgStatus = s.cfgStatus := rfl
@[simp] theorem State.setHeld_resetDone (s : State) (v : Sample) : (s.setHeld v).resetDone = s.resetDone := rfl
@[simp] theorem State.setHeld_cfg (s : State) (v : Sample) : (s.setHeld v).cfg = s.cfg := rfl
@[simp] theorem State.setHeld_rom (s : State) (v : Sample) : (s.setHeld v).rom = s.rom := rfl
@[simp] theorem State.setHeld_dac (s : State) (v : Sample) : (s.setHeld v).dac = s.dac := rfl
@[simp] theorem State.setHeld_answers (s : State) (v : Sample) : (s.setHeld v).answers = s.answers := rfl
@[simp] theorem State.setHeld_sample (s : State) (v : Sample) : (s.setHeld v).sample = s.sample := rfl
@[simp] theorem State.setHeld_pins (s : State) (v : Sample) : (s.setHeld v).pins = s.pins := rfl
@[simp] theorem State.setHeld_waiting (s : State) (v : Sample) : (s.setHeld v).waiting = s.waiting := rfl
@[simp] theorem State.setHeld_schedule (s : State) (v : Sample) : (s.setHeld v).schedule = s.schedule := rfl
@[simp] theorem State.setHeld_turn (s : State) (v : Sample) : (s.setHeld v).turn = s.turn := rfl
@[simp] theorem State.setHeld_draws (s : State) (v : Sample) : (s.setHeld v).draws = s.draws := rfl

/-! ### setReady -/

@[simp] theorem State.setReady_tracks (s : State) (b : Bool) : (s.setReady b).tracks = s.tracks := rfl
@[simp] theorem State.setReady_held (s : State) (b : Bool) : (s.setReady b).held = s.held := rfl
@[simp] theorem State.setReady_ready (s : State) (b : Bool) : (s.setReady b).ready = b := rfl
@[simp] theorem State.setReady_busy (s : State) (b : Bool) : (s.setReady b).busy = s.busy := rfl
@[simp] theorem State.setReady_fault (s : State) (b : Bool) : (s.setReady b).fault = s.fault := rfl
@[simp] theorem State.setReady_cfgStatus (s : State) (b : Bool) : (s.setReady b).cfgStatus = s.cfgStatus := rfl
@[simp] theorem State.setReady_resetDone (s : State) (b : Bool) : (s.setReady b).resetDone = s.resetDone := rfl
@[simp] theorem State.setReady_cfg (s : State) (b : Bool) : (s.setReady b).cfg = s.cfg := rfl
@[simp] theorem State.setReady_rom (s : State) (b : Bool) : (s.setReady b).rom = s.rom := rfl
@[simp] theorem State.setReady_dac (s : State) (b : Bool) : (s.setReady b).dac = s.dac := rfl
@[simp] theorem State.setReady_answers (s : State) (b : Bool) : (s.setReady b).answers = s.answers := rfl
@[simp] theorem State.setReady_sample (s : State) (b : Bool) : (s.setReady b).sample = s.sample := rfl
@[simp] theorem State.setReady_pins (s : State) (b : Bool) : (s.setReady b).pins = s.pins := rfl
@[simp] theorem State.setReady_waiting (s : State) (b : Bool) : (s.setReady b).waiting = s.waiting := rfl
@[simp] theorem State.setReady_schedule (s : State) (b : Bool) : (s.setReady b).schedule = s.schedule := rfl
@[simp] theorem State.setReady_turn (s : State) (b : Bool) : (s.setReady b).turn = s.turn := rfl
@[simp] theorem State.setReady_draws (s : State) (b : Bool) : (s.setReady b).draws = s.draws := rfl

/-! ### setBusy -/

@[simp] theorem State.setBusy_tracks (s : State) (b : Bool) : (s.setBusy b).tracks = s.tracks := rfl
@[simp] theorem State.setBusy_held (s : State) (b : Bool) : (s.setBusy b).held = s.held := rfl
@[simp] theorem State.setBusy_ready (s : State) (b : Bool) : (s.setBusy b).ready = s.ready := rfl
@[simp] theorem State.setBusy_busy (s : State) (b : Bool) : (s.setBusy b).busy = b := rfl
@[simp] theorem State.setBusy_fault (s : State) (b : Bool) : (s.setBusy b).fault = s.fault := rfl
@[simp] theorem State.setBusy_cfgStatus (s : State) (b : Bool) : (s.setBusy b).cfgStatus = s.cfgStatus := rfl
@[simp] theorem State.setBusy_resetDone (s : State) (b : Bool) : (s.setBusy b).resetDone = s.resetDone := rfl
@[simp] theorem State.setBusy_cfg (s : State) (b : Bool) : (s.setBusy b).cfg = s.cfg := rfl
@[simp] theorem State.setBusy_rom (s : State) (b : Bool) : (s.setBusy b).rom = s.rom := rfl
@[simp] theorem State.setBusy_dac (s : State) (b : Bool) : (s.setBusy b).dac = s.dac := rfl
@[simp] theorem State.setBusy_answers (s : State) (b : Bool) : (s.setBusy b).answers = s.answers := rfl
@[simp] theorem State.setBusy_sample (s : State) (b : Bool) : (s.setBusy b).sample = s.sample := rfl
@[simp] theorem State.setBusy_pins (s : State) (b : Bool) : (s.setBusy b).pins = s.pins := rfl
@[simp] theorem State.setBusy_waiting (s : State) (b : Bool) : (s.setBusy b).waiting = s.waiting := rfl
@[simp] theorem State.setBusy_schedule (s : State) (b : Bool) : (s.setBusy b).schedule = s.schedule := rfl
@[simp] theorem State.setBusy_turn (s : State) (b : Bool) : (s.setBusy b).turn = s.turn := rfl
@[simp] theorem State.setBusy_draws (s : State) (b : Bool) : (s.setBusy b).draws = s.draws := rfl

/-! ### setFault -/

@[simp] theorem State.setFault_tracks (s : State) (f : FaultReg) : (s.setFault f).tracks = s.tracks := rfl
@[simp] theorem State.setFault_held (s : State) (f : FaultReg) : (s.setFault f).held = s.held := rfl
@[simp] theorem State.setFault_ready (s : State) (f : FaultReg) : (s.setFault f).ready = s.ready := rfl
@[simp] theorem State.setFault_busy (s : State) (f : FaultReg) : (s.setFault f).busy = s.busy := rfl
@[simp] theorem State.setFault_fault (s : State) (f : FaultReg) : (s.setFault f).fault = f := rfl
@[simp] theorem State.setFault_cfgStatus (s : State) (f : FaultReg) : (s.setFault f).cfgStatus = s.cfgStatus := rfl
@[simp] theorem State.setFault_resetDone (s : State) (f : FaultReg) : (s.setFault f).resetDone = s.resetDone := rfl
@[simp] theorem State.setFault_cfg (s : State) (f : FaultReg) : (s.setFault f).cfg = s.cfg := rfl
@[simp] theorem State.setFault_rom (s : State) (f : FaultReg) : (s.setFault f).rom = s.rom := rfl
@[simp] theorem State.setFault_dac (s : State) (f : FaultReg) : (s.setFault f).dac = s.dac := rfl
@[simp] theorem State.setFault_answers (s : State) (f : FaultReg) : (s.setFault f).answers = s.answers := rfl
@[simp] theorem State.setFault_sample (s : State) (f : FaultReg) : (s.setFault f).sample = s.sample := rfl
@[simp] theorem State.setFault_pins (s : State) (f : FaultReg) : (s.setFault f).pins = s.pins := rfl
@[simp] theorem State.setFault_waiting (s : State) (f : FaultReg) : (s.setFault f).waiting = s.waiting := rfl
@[simp] theorem State.setFault_schedule (s : State) (f : FaultReg) : (s.setFault f).schedule = s.schedule := rfl
@[simp] theorem State.setFault_turn (s : State) (f : FaultReg) : (s.setFault f).turn = s.turn := rfl
@[simp] theorem State.setFault_draws (s : State) (f : FaultReg) : (s.setFault f).draws = s.draws := rfl

/-! ### dacWrite -/

@[simp] theorem State.dacWrite_tracks (s : State) (v : Sample) : (s.dacWrite v).tracks = s.tracks := rfl
@[simp] theorem State.dacWrite_held (s : State) (v : Sample) : (s.dacWrite v).held = s.held := rfl
@[simp] theorem State.dacWrite_ready (s : State) (v : Sample) : (s.dacWrite v).ready = s.ready := rfl
@[simp] theorem State.dacWrite_busy (s : State) (v : Sample) : (s.dacWrite v).busy = s.busy := rfl
@[simp] theorem State.dacWrite_fault (s : State) (v : Sample) : (s.dacWrite v).fault = s.fault := rfl
@[simp] theorem State.dacWrite_cfgStatus (s : State) (v : Sample) : (s.dacWrite v).cfgStatus = s.cfgStatus := rfl
@[simp] theorem State.dacWrite_resetDone (s : State) (v : Sample) : (s.dacWrite v).resetDone = s.resetDone := rfl
@[simp] theorem State.dacWrite_cfg (s : State) (v : Sample) : (s.dacWrite v).cfg = s.cfg := rfl
@[simp] theorem State.dacWrite_rom (s : State) (v : Sample) : (s.dacWrite v).rom = s.rom := rfl
@[simp] theorem State.dacWrite_dac (s : State) (v : Sample) : (s.dacWrite v).dac = s.dac ++ [v] := rfl
@[simp] theorem State.dacWrite_answers (s : State) (v : Sample) : (s.dacWrite v).answers = s.answers := rfl
@[simp] theorem State.dacWrite_sample (s : State) (v : Sample) : (s.dacWrite v).sample = s.sample := rfl
@[simp] theorem State.dacWrite_pins (s : State) (v : Sample) : (s.dacWrite v).pins = s.pins := rfl
@[simp] theorem State.dacWrite_waiting (s : State) (v : Sample) : (s.dacWrite v).waiting = s.waiting := rfl
@[simp] theorem State.dacWrite_schedule (s : State) (v : Sample) : (s.dacWrite v).schedule = s.schedule := rfl
@[simp] theorem State.dacWrite_turn (s : State) (v : Sample) : (s.dacWrite v).turn = s.turn := rfl
@[simp] theorem State.dacWrite_draws (s : State) (v : Sample) : (s.dacWrite v).draws = s.draws := rfl

/-! ### answer -/

@[simp] theorem State.answer_tracks (s : State) (a : InitAnswer) : (s.answer a).tracks = s.tracks := rfl
@[simp] theorem State.answer_held (s : State) (a : InitAnswer) : (s.answer a).held = s.held := rfl
@[simp] theorem State.answer_ready (s : State) (a : InitAnswer) : (s.answer a).ready = s.ready := rfl
@[simp] theorem State.answer_busy (s : State) (a : InitAnswer) : (s.answer a).busy = s.busy := rfl
@[simp] theorem State.answer_fault (s : State) (a : InitAnswer) : (s.answer a).fault = s.fault := rfl
@[simp] theorem State.answer_cfgStatus (s : State) (a : InitAnswer) : (s.answer a).cfgStatus = s.cfgStatus := rfl
@[simp] theorem State.answer_resetDone (s : State) (a : InitAnswer) : (s.answer a).resetDone = s.resetDone := rfl
@[simp] theorem State.answer_cfg (s : State) (a : InitAnswer) : (s.answer a).cfg = s.cfg := rfl
@[simp] theorem State.answer_rom (s : State) (a : InitAnswer) : (s.answer a).rom = s.rom := rfl
@[simp] theorem State.answer_dac (s : State) (a : InitAnswer) : (s.answer a).dac = s.dac := rfl
@[simp] theorem State.answer_answers (s : State) (a : InitAnswer) : (s.answer a).answers = s.answers ++ [a] := rfl
@[simp] theorem State.answer_sample (s : State) (a : InitAnswer) : (s.answer a).sample = s.sample := rfl
@[simp] theorem State.answer_pins (s : State) (a : InitAnswer) : (s.answer a).pins = s.pins := rfl
@[simp] theorem State.answer_waiting (s : State) (a : InitAnswer) : (s.answer a).waiting = s.waiting := rfl
@[simp] theorem State.answer_schedule (s : State) (a : InitAnswer) : (s.answer a).schedule = s.schedule := rfl
@[simp] theorem State.answer_turn (s : State) (a : InitAnswer) : (s.answer a).turn = s.turn := rfl
@[simp] theorem State.answer_draws (s : State) (a : InitAnswer) : (s.answer a).draws = s.draws := rfl

/-! ### setPins -/

@[simp] theorem State.setPins_tracks (s : State) (p : Pins) : (s.setPins p).tracks = s.tracks := rfl
@[simp] theorem State.setPins_held (s : State) (p : Pins) : (s.setPins p).held = s.held := rfl
@[simp] theorem State.setPins_ready (s : State) (p : Pins) : (s.setPins p).ready = s.ready := rfl
@[simp] theorem State.setPins_busy (s : State) (p : Pins) : (s.setPins p).busy = s.busy := rfl
@[simp] theorem State.setPins_fault (s : State) (p : Pins) : (s.setPins p).fault = s.fault := rfl
@[simp] theorem State.setPins_cfgStatus (s : State) (p : Pins) : (s.setPins p).cfgStatus = s.cfgStatus := rfl
@[simp] theorem State.setPins_resetDone (s : State) (p : Pins) : (s.setPins p).resetDone = s.resetDone := rfl
@[simp] theorem State.setPins_cfg (s : State) (p : Pins) : (s.setPins p).cfg = s.cfg := rfl
@[simp] theorem State.setPins_rom (s : State) (p : Pins) : (s.setPins p).rom = s.rom := rfl
@[simp] theorem State.setPins_dac (s : State) (p : Pins) : (s.setPins p).dac = s.dac := rfl
@[simp] theorem State.setPins_answers (s : State) (p : Pins) : (s.setPins p).answers = s.answers := rfl
@[simp] theorem State.setPins_sample (s : State) (p : Pins) : (s.setPins p).sample = s.sample := rfl
@[simp] theorem State.setPins_pins (s : State) (p : Pins) : (s.setPins p).pins = p := rfl
@[simp] theorem State.setPins_waiting (s : State) (p : Pins) : (s.setPins p).waiting = s.waiting := rfl
@[simp] theorem State.setPins_schedule (s : State) (p : Pins) : (s.setPins p).schedule = s.schedule := rfl
@[simp] theorem State.setPins_turn (s : State) (p : Pins) : (s.setPins p).turn = s.turn := rfl
@[simp] theorem State.setPins_draws (s : State) (p : Pins) : (s.setPins p).draws = s.draws := rfl

/-! ### schedulingFirst -/

@[simp] theorem State.schedulingFirst_tracks (s : State) (e : Event) : (s.schedulingFirst e).tracks = s.tracks := rfl
@[simp] theorem State.schedulingFirst_held (s : State) (e : Event) : (s.schedulingFirst e).held = s.held := rfl
@[simp] theorem State.schedulingFirst_ready (s : State) (e : Event) : (s.schedulingFirst e).ready = s.ready := rfl
@[simp] theorem State.schedulingFirst_busy (s : State) (e : Event) : (s.schedulingFirst e).busy = s.busy := rfl
@[simp] theorem State.schedulingFirst_fault (s : State) (e : Event) : (s.schedulingFirst e).fault = s.fault := rfl
@[simp] theorem State.schedulingFirst_cfgStatus (s : State) (e : Event) : (s.schedulingFirst e).cfgStatus = s.cfgStatus := rfl
@[simp] theorem State.schedulingFirst_resetDone (s : State) (e : Event) : (s.schedulingFirst e).resetDone = s.resetDone := rfl
@[simp] theorem State.schedulingFirst_cfg (s : State) (e : Event) : (s.schedulingFirst e).cfg = s.cfg := rfl
@[simp] theorem State.schedulingFirst_rom (s : State) (e : Event) : (s.schedulingFirst e).rom = s.rom := rfl
@[simp] theorem State.schedulingFirst_dac (s : State) (e : Event) : (s.schedulingFirst e).dac = s.dac := rfl
@[simp] theorem State.schedulingFirst_answers (s : State) (e : Event) : (s.schedulingFirst e).answers = s.answers := rfl
@[simp] theorem State.schedulingFirst_sample (s : State) (e : Event) : (s.schedulingFirst e).sample = s.sample := rfl
@[simp] theorem State.schedulingFirst_pins (s : State) (e : Event) : (s.schedulingFirst e).pins = s.pins := rfl
@[simp] theorem State.schedulingFirst_waiting (s : State) (e : Event) : (s.schedulingFirst e).waiting = s.waiting := rfl
@[simp] theorem State.schedulingFirst_schedule (s : State) (e : Event) : (s.schedulingFirst e).schedule = e :: s.schedule := rfl
@[simp] theorem State.schedulingFirst_turn (s : State) (e : Event) : (s.schedulingFirst e).turn = s.turn := rfl
@[simp] theorem State.schedulingFirst_draws (s : State) (e : Event) : (s.schedulingFirst e).draws = s.draws := rfl

/-! ### popEvent -/

@[simp] theorem State.popEvent_tracks (s : State) : s.popEvent.tracks = s.tracks := rfl
@[simp] theorem State.popEvent_held (s : State) : s.popEvent.held = s.held := rfl
@[simp] theorem State.popEvent_ready (s : State) : s.popEvent.ready = s.ready := rfl
@[simp] theorem State.popEvent_busy (s : State) : s.popEvent.busy = s.busy := rfl
@[simp] theorem State.popEvent_fault (s : State) : s.popEvent.fault = s.fault := rfl
@[simp] theorem State.popEvent_cfgStatus (s : State) : s.popEvent.cfgStatus = s.cfgStatus := rfl
@[simp] theorem State.popEvent_resetDone (s : State) : s.popEvent.resetDone = s.resetDone := rfl
@[simp] theorem State.popEvent_cfg (s : State) : s.popEvent.cfg = s.cfg := rfl
@[simp] theorem State.popEvent_rom (s : State) : s.popEvent.rom = s.rom := rfl
@[simp] theorem State.popEvent_dac (s : State) : s.popEvent.dac = s.dac := rfl
@[simp] theorem State.popEvent_answers (s : State) : s.popEvent.answers = s.answers := rfl
@[simp] theorem State.popEvent_sample (s : State) : s.popEvent.sample = s.sample := rfl
@[simp] theorem State.popEvent_pins (s : State) : s.popEvent.pins = s.pins := rfl
@[simp] theorem State.popEvent_waiting (s : State) : s.popEvent.waiting = s.waiting := rfl
@[simp] theorem State.popEvent_draws (s : State) : s.popEvent.draws = s.draws := rfl
@[simp] theorem State.popEvent_schedule (s : State) : s.popEvent.schedule = s.moves.tail := rfl
theorem State.popEvent_turn (s : State) :
    s.popEvent.turn = if s.schedule.isEmpty then s.turn + 1 else s.turn := rfl

/-! ### moves -/

/-- The moves ahead while the schedule lasts. -/
theorem State.moves_cons {s : State} {e : Event} {es : List Event} (h : s.schedule = e :: es) :
    s.moves = e :: es := by simp [State.moves, h]

/-- The moves ahead once it is used up. -/
theorem State.moves_nil {s : State} (h : s.schedule = []) :
    s.moves = Config.freeMoves s.turn ++ [.produce] := by simp [State.moves, h]

/-- Some move always lies ahead. -/
theorem State.moves_ne_nil (s : State) : s.moves ≠ [] := by
  unfold State.moves; split <;> simp

/-- The next move and the ones after it. -/
theorem State.moves_eq (s : State) : s.moves = s.nextEvent :: s.popEvent.schedule := by
  cases h : s.moves with
  | nil => exact absurd h s.moves_ne_nil
  | cons e es => simp [State.nextEvent, h]

/-! ### setTrack, put -/

@[simp] theorem State.setTrack_tracks (s : State) (i : TrackId) (k : Track) :
    (s.setTrack i k).tracks = s.tracks.set i.toNat k := rfl
@[simp] theorem State.setTrack_held (s : State) (i : TrackId) (k : Track) :
    (s.setTrack i k).held = s.held := rfl
@[simp] theorem State.setTrack_ready (s : State) (i : TrackId) (k : Track) :
    (s.setTrack i k).ready = s.ready := rfl
@[simp] theorem State.setTrack_busy (s : State) (i : TrackId) (k : Track) :
    (s.setTrack i k).busy = s.busy := rfl
@[simp] theorem State.setTrack_fault (s : State) (i : TrackId) (k : Track) :
    (s.setTrack i k).fault = s.fault := rfl
@[simp] theorem State.setTrack_cfgStatus (s : State) (i : TrackId) (k : Track) :
    (s.setTrack i k).cfgStatus = s.cfgStatus := rfl
@[simp] theorem State.setTrack_resetDone (s : State) (i : TrackId) (k : Track) :
    (s.setTrack i k).resetDone = s.resetDone := rfl
@[simp] theorem State.setTrack_cfg (s : State) (i : TrackId) (k : Track) :
    (s.setTrack i k).cfg = s.cfg := rfl
@[simp] theorem State.setTrack_rom (s : State) (i : TrackId) (k : Track) :
    (s.setTrack i k).rom = s.rom := rfl
@[simp] theorem State.setTrack_dac (s : State) (i : TrackId) (k : Track) :
    (s.setTrack i k).dac = s.dac := rfl
@[simp] theorem State.setTrack_answers (s : State) (i : TrackId) (k : Track) :
    (s.setTrack i k).answers = s.answers := rfl
@[simp] theorem State.setTrack_sample (s : State) (i : TrackId) (k : Track) :
    (s.setTrack i k).sample = s.sample := rfl
@[simp] theorem State.setTrack_pins (s : State) (i : TrackId) (k : Track) :
    (s.setTrack i k).pins = s.pins := rfl
@[simp] theorem State.setTrack_waiting (s : State) (i : TrackId) (k : Track) :
    (s.setTrack i k).waiting = s.waiting := rfl
@[simp] theorem State.setTrack_schedule (s : State) (i : TrackId) (k : Track) :
    (s.setTrack i k).schedule = s.schedule := rfl
@[simp] theorem State.setTrack_turn (s : State) (i : TrackId) (k : Track) :
    (s.setTrack i k).turn = s.turn := rfl
@[simp] theorem State.setTrack_draws (s : State) (i : TrackId) (k : Track) :
    (s.setTrack i k).draws = s.draws := rfl
@[simp] theorem State.put_tracks (s : State) (i : TrackId) (r : Track × Sample) :
    (s.put i r).tracks = s.tracks.set i.toNat r.1 := rfl
@[simp] theorem State.put_held (s : State) (i : TrackId) (r : Track × Sample) :
    (s.put i r).held = s.held := rfl
@[simp] theorem State.put_ready (s : State) (i : TrackId) (r : Track × Sample) :
    (s.put i r).ready = s.ready := rfl
@[simp] theorem State.put_busy (s : State) (i : TrackId) (r : Track × Sample) :
    (s.put i r).busy = s.busy := rfl
@[simp] theorem State.put_fault (s : State) (i : TrackId) (r : Track × Sample) :
    (s.put i r).fault = s.fault := rfl
@[simp] theorem State.put_cfgStatus (s : State) (i : TrackId) (r : Track × Sample) :
    (s.put i r).cfgStatus = s.cfgStatus := rfl
@[simp] theorem State.put_resetDone (s : State) (i : TrackId) (r : Track × Sample) :
    (s.put i r).resetDone = s.resetDone := rfl
@[simp] theorem State.put_cfg (s : State) (i : TrackId) (r : Track × Sample) :
    (s.put i r).cfg = s.cfg := rfl
@[simp] theorem State.put_rom (s : State) (i : TrackId) (r : Track × Sample) :
    (s.put i r).rom = s.rom := rfl
@[simp] theorem State.put_dac (s : State) (i : TrackId) (r : Track × Sample) :
    (s.put i r).dac = s.dac := rfl
@[simp] theorem State.put_answers (s : State) (i : TrackId) (r : Track × Sample) :
    (s.put i r).answers = s.answers := rfl
@[simp] theorem State.put_sample (s : State) (i : TrackId) (r : Track × Sample) :
    (s.put i r).sample = r.2 := rfl
@[simp] theorem State.put_pins (s : State) (i : TrackId) (r : Track × Sample) :
    (s.put i r).pins = s.pins := rfl
@[simp] theorem State.put_waiting (s : State) (i : TrackId) (r : Track × Sample) :
    (s.put i r).waiting = s.waiting := rfl
@[simp] theorem State.put_schedule (s : State) (i : TrackId) (r : Track × Sample) :
    (s.put i r).schedule = s.schedule := rfl
@[simp] theorem State.put_turn (s : State) (i : TrackId) (r : Track × Sample) :
    (s.put i r).turn = s.turn := rfl
@[simp] theorem State.put_draws (s : State) (i : TrackId) (r : Track × Sample) :
    (s.put i r).draws = s.draws := rfl

/-! ### takeFault -/

@[simp] theorem State.takeFault_tracks (s : State) (c : FaultCode) (i : TrackId) (pos : Word16) :
    (s.takeFault c i pos).tracks = s.tracks := by
  unfold State.takeFault; split <;> rfl
@[simp] theorem State.takeFault_held (s : State) (c : FaultCode) (i : TrackId) (pos : Word16) :
    (s.takeFault c i pos).held = s.held := by
  unfold State.takeFault; split <;> rfl
@[simp] theorem State.takeFault_ready (s : State) (c : FaultCode) (i : TrackId) (pos : Word16) :
    (s.takeFault c i pos).ready = s.ready := by
  unfold State.takeFault; split <;> rfl
@[simp] theorem State.takeFault_busy (s : State) (c : FaultCode) (i : TrackId) (pos : Word16) :
    (s.takeFault c i pos).busy = false := by
  unfold State.takeFault; split <;> rfl
@[simp] theorem State.takeFault_cfgStatus (s : State) (c : FaultCode) (i : TrackId) (pos : Word16) :
    (s.takeFault c i pos).cfgStatus = s.cfgStatus := by
  unfold State.takeFault; split <;> rfl
@[simp] theorem State.takeFault_resetDone (s : State) (c : FaultCode) (i : TrackId) (pos : Word16) :
    (s.takeFault c i pos).resetDone = s.resetDone := by
  unfold State.takeFault; split <;> rfl
@[simp] theorem State.takeFault_cfg (s : State) (c : FaultCode) (i : TrackId) (pos : Word16) :
    (s.takeFault c i pos).cfg = s.cfg := by
  unfold State.takeFault; split <;> rfl
@[simp] theorem State.takeFault_rom (s : State) (c : FaultCode) (i : TrackId) (pos : Word16) :
    (s.takeFault c i pos).rom = s.rom := by
  unfold State.takeFault; split <;> rfl
@[simp] theorem State.takeFault_dac (s : State) (c : FaultCode) (i : TrackId) (pos : Word16) :
    (s.takeFault c i pos).dac = s.dac := by
  unfold State.takeFault; split <;> rfl
@[simp] theorem State.takeFault_answers (s : State) (c : FaultCode) (i : TrackId) (pos : Word16) :
    (s.takeFault c i pos).answers = s.answers := by
  unfold State.takeFault; split <;> rfl
@[simp] theorem State.takeFault_sample (s : State) (c : FaultCode) (i : TrackId) (pos : Word16) :
    (s.takeFault c i pos).sample = s.sample := by
  unfold State.takeFault; split <;> rfl
@[simp] theorem State.takeFault_pins (s : State) (c : FaultCode) (i : TrackId) (pos : Word16) :
    (s.takeFault c i pos).pins = s.pins := by
  unfold State.takeFault; split <;> rfl
@[simp] theorem State.takeFault_waiting (s : State) (c : FaultCode) (i : TrackId) (pos : Word16) :
    (s.takeFault c i pos).waiting = s.waiting := by
  unfold State.takeFault; split <;> rfl
@[simp] theorem State.takeFault_schedule (s : State) (c : FaultCode) (i : TrackId) (pos : Word16) :
    (s.takeFault c i pos).schedule = s.schedule := by
  unfold State.takeFault; split <;> rfl
@[simp] theorem State.takeFault_turn (s : State) (c : FaultCode) (i : TrackId) (pos : Word16) :
    (s.takeFault c i pos).turn = s.turn := by
  unfold State.takeFault; split <;> rfl
@[simp] theorem State.takeFault_draws (s : State) (c : FaultCode) (i : TrackId) (pos : Word16) :
    (s.takeFault c i pos).draws = s.draws := by
  unfold State.takeFault; split <;> rfl

/-- The first fault is kept (R35). -/
theorem State.takeFault_fault (s : State) (c : FaultCode) (i : TrackId) (pos : Word16) :
    (s.takeFault c i pos).fault =
      if s.fault.code = .none then { code := c, track := i, pos := pos } else s.fault := by
  unfold State.takeFault; split <;> rfl

end Sys2Proof.Machine
end

