-- ==== Sys2Proof/Laws/Ops.lean ====
section
/-! SUPPORT. What each shared operation can do, said once: the lemmas later proofs cite instead of
unfolding the operation. -/

namespace Sys2Proof.Machine

open Sys2Proof

/-! ### Generators -/

/-- A generator writes PHASE and NOISE only (R110). -/
theorem noiseStep_frame (rom : Rom) (a b : Nat) (k : Track) :
    (noiseStep rom a b k).1 =
      { k with phase := (noiseStep rom a b k).1.phase, noise := (noiseStep rom a b k).1.noise } := by
  unfold noiseStep; dsimp only; split <;> rfl

/-- The LFSR after a noise step is the one before it, or that one clocked once (R118). -/
theorem noiseStep_noise (rom : Rom) (a b : Nat) (k : Track) :
    (noiseStep rom a b k).1.noise = k.noise ∨
      (noiseStep rom a b k).1.noise = lfsrClock k.noise a b := by
  unfold noiseStep; dsimp only; split <;> simp

/-- What GEN_DISPATCH can answer: one of the five generators' results, or a stop on a reserved
code. -/
theorem genDispatch_cases (rom : Rom) (k : Track) :
    (k.gen = 0 ∧ genDispatch rom k = .ok (sawStep k)) ∨
    (k.gen = 1 ∧ genDispatch rom k = .ok (triStep k)) ∨
    (k.gen = 2 ∧ genDispatch rom k = .ok (squareStep k)) ∨
    (k.gen = 3 ∧ genDispatch rom k = .ok (noise93Step rom k)) ∨
    (k.gen = 4 ∧ genDispatch rom k = .ok (noise32kStep rom k)) ∨
    (5 ≤ k.gen.toNat ∧ genDispatch rom k = .error (.stuck (.noGenerator k.gen))) := by
  have key : ∀ g : BitVec 3, g = 0 ∨ g = 1 ∨ g = 2 ∨ g = 3 ∨ g = 4 ∨ g = 5 ∨ g = 6 ∨ g = 7 := by
    decide
  unfold genDispatch
  rcases key k.gen with h | h | h | h | h | h | h | h <;> simp [h]

/-- A dispatch that answers changes PHASE and NOISE only, and NOISE by at most one clock with taps
14 and 8, or 14 and 13. -/
theorem genDispatch_ok {rom : Rom} {k k' : Track} {v : Sample}
    (h : genDispatch rom k = .ok (k', v)) :
    k.gen.toNat ≤ 4 ∧ k' = { k with phase := k'.phase, noise := k'.noise } ∧
      (k'.noise = k.noise ∨ k'.noise = lfsrClock k.noise 14 8 ∨
        k'.noise = lfsrClock k.noise 14 13) := by
  obtain ⟨hg, e⟩ | ⟨hg, e⟩ | ⟨hg, e⟩ | ⟨hg, e⟩ | ⟨hg, e⟩ | ⟨-, e⟩ := genDispatch_cases rom k <;>
    rw [e] at h <;> simp only [Except.ok.injEq, Prod.ext_iff, reduceCtorEq] at h
  · exact ⟨by simp [hg], h.1 ▸ rfl, .inl (h.1 ▸ rfl)⟩
  · exact ⟨by simp [hg], h.1 ▸ rfl, .inl (h.1 ▸ rfl)⟩
  · exact ⟨by simp [hg], h.1 ▸ rfl, .inl (h.1 ▸ rfl)⟩
  · rw [← h.1]
    exact ⟨by simp [hg], noiseStep_frame rom 14 8 k, by
      rcases noiseStep_noise rom 14 8 k with h | h
      · exact .inl h
      · exact .inr (.inl h)⟩
  · rw [← h.1]
    exact ⟨by simp [hg], noiseStep_frame rom 14 13 k, by
      rcases noiseStep_noise rom 14 13 k with h | h
      · exact .inl h
      · exact .inr (.inr h)⟩

/-- A legal generator code always answers (R112). -/
theorem genDispatch_of_legal {rom : Rom} {k : Track} (h : k.gen.toNat ≤ 4) :
    ∃ k' v, genDispatch rom k = .ok (k', v) := by
  obtain ⟨-, e⟩ | ⟨-, e⟩ | ⟨-, e⟩ | ⟨-, e⟩ | ⟨-, e⟩ | ⟨hg, -⟩ := genDispatch_cases rom k
  · exact ⟨_, _, e⟩
  · exact ⟨_, _, e⟩
  · exact ⟨_, _, e⟩
  · exact ⟨_, _, e⟩
  · exact ⟨_, _, e⟩
  · omega

/-! ### PRODUCE -/

/-- What PRODUCE can answer: silence with only REM changed, a generator's result with REM counted
down, or the dispatch's stop (R149). -/
theorem produce_cases (rom : Rom) (cfg : GlobalCfg) (wrapped : Bool) (k : Track) :
    (((wrapped = true ∧ cfg.wrapMode = .silent) ∨ k.freqInc = 0) ∧
      produce rom cfg wrapped k = .ok (k.countDown, silence)) ∨
    (k.freqInc ≠ 0 ∧ ∃ k' v, genDispatch rom k = .ok (k', v) ∧
      produce rom cfg wrapped k = .ok (k'.countDown, v)) ∨
    (k.freqInc ≠ 0 ∧ ∃ h, genDispatch rom k = .error h ∧ produce rom cfg wrapped k = .error h) := by
  unfold produce
  split_ifs with h1 h2
  · exact .inl ⟨.inl (by simpa using h1), rfl⟩
  · exact .inl ⟨.inr h2, rfl⟩
  · cases hd : genDispatch rom k with
    | ok r => exact .inr (.inl ⟨h2, r.1, r.2, rfl, rfl⟩)
    | error e => exact .inr (.inr ⟨h2, e, rfl, rfl⟩)

/-- A PRODUCE that answers changes PHASE, NOISE and REM only. -/
theorem produce_ok {rom : Rom} {cfg : GlobalCfg} {wrapped : Bool} {k k' : Track} {v : Sample}
    (h : produce rom cfg wrapped k = .ok (k', v)) :
    k' = { k with phase := k'.phase, noise := k'.noise, rem := k.rem - 1 } ∧
      (k'.noise = k.noise ∨ k'.noise = lfsrClock k.noise 14 8 ∨
        k'.noise = lfsrClock k.noise 14 13) := by
  obtain ⟨-, e⟩ | ⟨-, k1, v1, hd, e⟩ | ⟨-, h', -, e⟩ := produce_cases rom cfg wrapped k <;>
    rw [e] at h <;> cases h
  · exact ⟨rfl, .inl rfl⟩
  · obtain ⟨-, hk, hn⟩ := genDispatch_ok hd
    refine ⟨?_, hn⟩
    rw [hk]; rfl

/-- A PRODUCE of a track with a legal generator always answers. -/
theorem produce_of_legal {rom : Rom} {cfg : GlobalCfg} {wrapped : Bool} {k : Track}
    (h : k.gen.toNat ≤ 4) : ∃ k' v, produce rom cfg wrapped k = .ok (k', v) := by
  obtain ⟨-, e⟩ | ⟨-, k1, v1, -, e⟩ | ⟨-, h', hd, -⟩ := produce_cases rom cfg wrapped k
  · exact ⟨_, _, e⟩
  · exact ⟨_, _, e⟩
  · obtain ⟨k1, v1, e⟩ := genDispatch_of_legal (rom := rom) h
    rw [e] at hd; cases hd

/-! ### Events -/

/-- What a NOTE can do: one of its three faults, in order, or its writes and a sample (R144). -/
theorem noteStep_cases (rom : Rom) (cfg : GlobalCfg) (p : Pitch) (t : Byte) (k : Track) :
    (72 ≤ p.toNat ∧ noteStep rom cfg p t k = .error (.raised .badPitch)) ∨
    (p.toNat < 72 ∧ k.len.toNat ≤ k.pos.toNat + 1 ∧
      noteStep rom cfg p t k = .error (.raised .streamOverrun)) ∨
    (p.toNat < 72 ∧ k.pos.toNat + 1 < k.len.toNat ∧ t = 0 ∧
      noteStep rom cfg p t k = .error (.raised .zeroDuration)) ∨
    (∃ h : p.toNat < 72, k.pos.toNat + 1 < k.len.toNat ∧ t ≠ 0 ∧
      noteStep rom cfg p t k = produce rom cfg false
        { k with freqInc := freqRead rom ⟨p.toNat, h⟩, currentNote := p, pos := k.pos + 2,
                 rem := duration cfg t.toNat }) := by
  by_cases h1 : p.toNat < 72
  · by_cases h2 : k.pos.toNat + 1 ≥ k.len.toNat
    · exact .inr (.inl ⟨h1, h2, by simp [noteStep, h1, h2]⟩)
    · by_cases h3 : t = 0
      · exact .inr (.inr (.inl ⟨h1, by omega, h3,
          by rw [noteStep, dif_pos h1, if_neg h2, if_pos h3]⟩))
      · exact .inr (.inr (.inr ⟨h1, by omega, h3,
          by rw [noteStep, dif_pos h1, if_neg h2, if_neg h3]⟩))
  · exact .inl ⟨by omega, by simp [noteStep, h1]⟩

/-- A REST faults on zero ticks, and else writes its registers and returns silence (R145). -/
theorem restStep_cases (rom : Rom) (cfg : GlobalCfg) (t : BitVec 7) (k : Track) :
    (t = 0 ∧ restStep rom cfg t k = .error (.raised .zeroDuration)) ∨
    (t ≠ 0 ∧ restStep rom cfg t k =
      .ok ({ k with freqInc := 0, phase := 0, pos := k.pos + 1,
                    rem := duration cfg t.toNat - 1 }, silence)) := by
  unfold restStep
  split_ifs with h
  · exact .inl ⟨h, rfl⟩
  · exact .inr ⟨h, by simp [produce, Track.countDown]⟩

/-- What SEQ_STEP does, by the state of the track (R141). -/
theorem seqStep_cases (rom : Rom) (cfg : GlobalCfg) (k : Track) :
    (k.active = false ∧ seqStep rom cfg k = .ok (k, silence)) ∨
    (k.active = true ∧ k.rem ≠ 0 ∧ seqStep rom cfg k = produce rom cfg false k) ∨
    (k.atLoopEnd = true ∧ seqStep rom cfg k = endLoopStep rom cfg k) ∨
    (k.atStopEnd = true ∧ seqStep rom cfg k = .ok (endStopStep k)) ∨
    (k.atEvent = true ∧ seqStep rom cfg k = eventStep rom cfg k) := by
  unfold seqStep Track.atLoopEnd Track.atStopEnd Track.atEvent Track.atBoundary
  split_ifs with h1 h2 h3 h4 <;> simp_all

/-! ### The mixer -/

/-- MIX with every track answering: the tracks after their steps, and the sum of the terms. -/
theorem mixFrom_ok {rom : Rom} {cfg : GlobalCfg} {i : Nat} {ks : List Track}
    {rs : List (Track × Sample)} (h : ks.map (seqStep rom cfg) = rs.map .ok) :
    mixFrom rom cfg i ks =
      .ok (rs.map Prod.fst, (rs.map fun r => mixTerm cfg.attenExp r.2).sum) := by
  induction ks generalizing rs i with
  | nil => cases rs <;> simp_all [mixFrom]
  | cons k ks ih =>
    cases rs with
    | nil => simp at h
    | cons r rs =>
      simp only [List.map_cons, List.cons.injEq] at h
      simp [mixFrom, h.1, ih h.2]

/-- A MIX that answers stepped every track. -/
theorem mixFrom_ok_inv {rom : Rom} {cfg : GlobalCfg} {i : Nat} {ks ts : List Track} {acc : Int}
    (h : mixFrom rom cfg i ks = .ok (ts, acc)) :
    ∃ rs : List (Track × Sample), ks.map (seqStep rom cfg) = rs.map .ok ∧ ts = rs.map Prod.fst ∧
      acc = (rs.map fun r => mixTerm cfg.attenExp r.2).sum := by
  induction ks generalizing ts acc i with
  | nil => cases h; exact ⟨[], rfl, rfl, rfl⟩
  | cons k ks ih =>
    unfold mixFrom at h
    cases hk : seqStep rom cfg k with
    | error e => simp [hk] at h
    | ok r =>
      simp only [hk] at h
      cases hm : mixFrom rom cfg (i + 1) ks with
      | error e => simp [hm] at h
      | ok q =>
        simp only [hm, Except.ok.injEq, Prod.mk.injEq] at h
        obtain ⟨rs, h1, h2, h3⟩ := ih hm
        exact ⟨r :: rs, by simp [hk, h1], by simp [← h.1, h2], by simp [← h.2, h3]⟩

/-- A MIX that is cut short names the first track whose step has no result. -/
theorem mixFrom_error_inv {rom : Rom} {cfg : GlobalCfg} {i : Nat} {ks : List Track} {e : MixHalt}
    (h : mixFrom rom cfg i ks = .error e) :
    ∃ j k, e.track = i + j ∧ ks[j]? = some k ∧ e.pos = k.pos ∧
      seqStep rom cfg k = .error e.halt ∧
      ∀ m k', m < j → ks[m]? = some k' → ∃ r, seqStep rom cfg k' = .ok r := by
  induction ks generalizing i with
  | nil => cases h
  | cons k ks ih =>
    unfold mixFrom at h
    cases hk : seqStep rom cfg k with
    | error d =>
      simp only [hk] at h; cases h
      exact ⟨0, k, rfl, rfl, rfl, hk, fun m k' hm => absurd hm (by omega)⟩
    | ok r =>
      simp only [hk] at h
      cases hm : mixFrom rom cfg (i + 1) ks with
      | ok q => simp [hm] at h
      | error d =>
        simp only [hm] at h; cases h
        obtain ⟨j, k1, h1, h2, h3, h4, h5⟩ := ih hm
        refine ⟨j + 1, k1, by omega, by simpa using h2, h3, h4, ?_⟩
        intro m k' hlt hk'
        cases m with
        | zero => simp at hk'; exact ⟨r, hk' ▸ hk⟩
        | succ m => exact h5 m k' (by omega) (by simpa using hk')

/-! ### Operations on one track -/

/-- What an operation on one track does: it is not taken and nothing changes, it writes the track
and the returned sample, or it ends without a result. -/
theorem State.onTrack_cases (s : State) (i : TrackId) (taken : Track → Bool)
    (f : Track → Except Halt (Track × Sample)) :
    s.onTrack i taken f = .next s ∨
    (∃ k r, s.computing i k ∧ taken k = true ∧ f k = .ok r ∧
      s.onTrack i taken f = .next (s.put i r)) ∨
    (∃ k h, s.computing i k ∧ taken k = true ∧ f k = .error h ∧
      s.onTrack i taken f = s.halted i k.pos h) := by
  unfold State.onTrack
  cases hk : s.tracks[i.toNat]? with
  | none => exact .inl rfl
  | some k =>
    dsimp only
    split_ifs with hc
    · rw [Bool.and_eq_true] at hc
      cases hf : f k with
      | ok r => exact .inr (.inl ⟨k, r, ⟨hc.1, hk⟩, hc.2, hf, rfl⟩)
      | error h => exact .inr (.inr ⟨k, h, ⟨hc.1, hk⟩, hc.2, hf, rfl⟩)
    · exact .inl rfl

/-- An operation on one track that is taken. -/
theorem State.onTrack_taken {s : State} {i : TrackId} {k : Track} {taken : Track → Bool}
    {f : Track → Except Halt (Track × Sample)} (h : s.computing i k) (ht : taken k = true) :
    s.onTrack i taken f = s.afterTrack i k (f k) := by
  unfold State.onTrack State.afterTrack
  cases hf : f k <;> simp only [h.2, h.1, ht, hf, Bool.and_self, if_true]

/-- An operation on one track that is not taken. -/
theorem State.onTrack_not_taken {s : State} {i : TrackId} {k : Track} {taken : Track → Bool}
    {f : Track → Except Halt (Track × Sample)} (h : s.tracks[i.toNat]? = some k)
    (ht : taken k = false) : s.onTrack i taken f = .next s := by
  simp [State.onTrack, h, ht]

/-- Outside a computation an operation on one track is not taken. -/
theorem State.onTrack_not_computing {s : State} {i : TrackId} {taken : Track → Bool}
    {f : Track → Except Halt (Track × Sample)} (h : s.commitEnabled = false) :
    s.onTrack i taken f = .next s := by
  unfold State.onTrack; cases s.tracks[i.toNat]? <;> simp [h]

/-- An operation that ends without a result stops the machine, or takes the fault. -/
theorem State.halted_next {s t : State} {i : TrackId} {pos : Word16} {h : Halt}
    (e : s.halted i pos h = .next t) : ∃ c, h = .raised c ∧ t = s.takeFault c i pos := by
  cases h <;> simp_all [State.halted]

/-! ### Configuration and RESET -/

/-- An accepted configuration passes every check (R226). -/
theorem Pins.check_accepted {p : Pins} (h : p.check = .accepted) :
    configInRange p.global ∧ p.bank.all genAccepted = true ∧ p.bank.all windowAccepted = true ∧
      lfsrAlive p.global.noiseSeed := by
  unfold Pins.check at h
  dsimp only at h
  split_ifs at h with h1 h2 h3 h4 h5 h6 h7 h8 h9
  exact ⟨⟨h1.1, h1.2, h2, h3, h4, h5, h6⟩, by simpa using h7, by simpa using h8, h9⟩

/-- The bank an accepted RESET leaves (R250). -/
theorem State.bankAfterReset_accepted {s : State} (h : s.pins.check = .accepted) :
    s.bankAfterReset = s.pins.bank.map (Track.init s.pins.global.noiseSeed) := by
  simp [State.bankAfterReset, h]

end Sys2Proof.Machine
end

