-- ==== Sys2Proof/Laws/Step.lean ====
section
/-! SUPPORT. What a step and each operation can do, said once; what every step keeps is derived from
it. -/

namespace Sys2Proof.Machine

open Sys2Proof

/-! ### The events and their bytes -/

/-- Bits 6..0 of a NOTE's first byte. -/
@[simp] theorem lowBits_note (p : Pitch) : lowBits (0#1 ++ p) = p := by
  revert p; decide

/-- Bits 6..0 of a REST's byte. -/
@[simp] theorem lowBits_rest (t : BitVec 7) : lowBits (1#1 ++ t) = t := by
  revert t; decide

/-- The kind of a NOTE's first byte. -/
@[simp] theorem isRestByte_note (p : Pitch) : isRestByte (0#1 ++ p) = false := by
  revert p; decide

/-- The kind of a REST's byte. -/
@[simp] theorem isRestByte_rest (t : BitVec 7) : isRestByte (1#1 ++ t) = true := by
  revert t; decide

/-- Inside the window the fetch answers, with one byte or two (R61). -/
theorem fetchEvent_of_window {rom : Rom} {k : Track} (h1 : k.pos.toNat < k.len.toNat)
    (h2 : k.base.toNat + k.len.toNat ≤ 65536) :
    ∃ b0, b0 = Memory.lookup rom.stream (k.base.toNat + k.pos.toNat) ∧
      ((isRestByte b0 = true ∧ fetchEvent rom k = .ok [b0]) ∨
       (isRestByte b0 = false ∧ k.pos.toNat + 1 < k.len.toNat ∧
        fetchEvent rom k =
          .ok [b0, Memory.lookup rom.stream (k.base.toNat + k.pos.toNat + 1)]) ∨
       (isRestByte b0 = false ∧ k.len.toNat ≤ k.pos.toNat + 1 ∧ fetchEvent rom k = .ok [b0])) := by
  refine ⟨_, rfl, ?_⟩
  have a0 : k.base.toNat + k.pos.toNat < 65536 := by omega
  cases hb : isRestByte (Memory.lookup rom.stream (k.base.toNat + k.pos.toNat)) with
  | true => exact .inl ⟨rfl, by simp [fetchEvent, memRead, a0, hb]⟩
  | false =>
    by_cases hl : k.pos.toNat + 1 < k.len.toNat
    · have a1 : k.base.toNat + k.pos.toNat + 1 < 65536 := by omega
      exact .inr (.inl ⟨rfl, hl, by simp [fetchEvent, memRead, a0, a1, hb, hl]⟩)
    · exact .inr (.inr ⟨rfl, by omega, by simp [fetchEvent, memRead, a0, hb, hl]⟩)

/-- What the event at the cursor does: a REST's or a NOTE's step with the operands its bytes hold, or
the fault of a NOTE whose tick byte lies outside the stream (R143, R222). -/
theorem eventStep_cases {rom : Rom} {cfg : GlobalCfg} {k : Track} (h1 : k.pos.toNat < k.len.toNat)
    (h2 : k.base.toNat + k.len.toNat ≤ 65536) :
    ∃ b0, b0 = Memory.lookup rom.stream (k.base.toNat + k.pos.toNat) ∧
      ((isRestByte b0 = true ∧ eventStep rom cfg k = restStep rom cfg (lowBits b0) k) ∨
       (isRestByte b0 = false ∧ k.pos.toNat + 1 < k.len.toNat ∧
        eventStep rom cfg k = noteStep rom cfg (lowBits b0)
          (Memory.lookup rom.stream (k.base.toNat + k.pos.toNat + 1)) k) ∨
       (isRestByte b0 = false ∧ k.len.toNat ≤ k.pos.toNat + 1 ∧
        eventStep rom cfg k = .error (noteWithoutTick (lowBits b0)))) := by
  obtain ⟨b0, hb, h⟩ := fetchEvent_of_window (rom := rom) h1 h2
  refine ⟨b0, hb, ?_⟩
  obtain ⟨a, e⟩ | ⟨a, l, e⟩ | ⟨a, l, e⟩ := h
  · exact .inl ⟨a, by simp [eventStep, e, decodeEvent, a]⟩
  · exact .inr (.inl ⟨a, l, by simp [eventStep, e, decodeEvent, a]⟩)
  · exact .inr (.inr ⟨a, l, by simp [eventStep, e, decodeEvent, a]⟩)

/-! ### Operations -/

/-- Every operation on one track is an instance of one shared operation. -/
theorem exec_onTrack {x : Instr} {i : TrackId} (s : State) (hx : trackOperation x = some i) :
    ∃ taken f, exec x s = s.onTrack i taken f := by
  cases x <;> simp only [trackOperation, Option.some.injEq, reduceCtorEq] at hx <;> subst hx <;>
    simp only [exec, execNote, execRest, execSaw, execTri, execSquare, execNoise93, execNoise32k,
      execEndLoop, execEndStop] <;>
    exact ⟨_, _, rfl⟩

/-- What an operation on one track that answers leaves: the state as it was, one track and the
returned sample written, or a fault recorded. -/
theorem exec_trackOperation {x : Instr} {i : TrackId} {s t : State}
    (hx : trackOperation x = some i) (h : exec x s = .next t) :
    t = s ∨ (∃ k r, s.computing i k ∧ t = s.put i r) ∨
      ∃ k c, s.computing i k ∧ t = s.takeFault c i k.pos := by
  obtain ⟨taken, f, e⟩ := exec_onTrack s hx
  rw [e] at h
  obtain e | ⟨k, r, hk, -, -, e⟩ | ⟨k, d, hk, -, -, e⟩ := s.onTrack_cases i taken f <;>
    rw [e] at h
  · cases h; exact .inl rfl
  · cases h; exact .inr (.inl ⟨k, r, hk, rfl⟩)
  · obtain ⟨c, -, rfl⟩ := State.halted_next h
    exact .inr (.inr ⟨k, c, hk, rfl⟩)

/-- What a COMMIT can do (R194): it is not enabled and nothing changes; the mix is stored; a fault is
recorded; or the machine stops. -/
theorem execComputeCommit_cases (s : State) :
    (s.commitEnabled = false ∧ execComputeCommit s = .next s) ∨
    (s.commitEnabled = true ∧ ∃ rs : List (Track × Sample),
      s.tracks.map (seqStep s.rom s.cfg) = rs.map .ok ∧
      execComputeCommit s = .next ((((s.setTracks (rs.map Prod.fst)).setHeld
        (rebias (rs.map fun r => mixTerm s.cfg.attenExp r.2).sum)).setReady false).setBusy false)) ∨
    (s.commitEnabled = true ∧ ∃ (j : Nat) (k : Track) (d : Halt), s.tracks[j]? = some k ∧
      seqStep s.rom s.cfg k = .error d ∧
      execComputeCommit s = s.halted (BitVec.ofNat 8 j) k.pos d) := by
  unfold execComputeCommit
  cases hc : s.commitEnabled with
  | false => exact .inl ⟨rfl, rfl⟩
  | true =>
    cases hm : mixFrom s.rom s.cfg 0 s.tracks with
    | ok q =>
      obtain ⟨rs, h1, h2, h3⟩ := mixFrom_ok_inv hm
      exact .inr (.inl ⟨rfl, rs, h1, by simp [State.mixed, hm, h2, h3]⟩)
    | error e =>
      obtain ⟨j, k, h1, h2, h3, h4, -⟩ := mixFrom_error_inv hm
      exact .inr (.inr ⟨rfl, j, k, e.halt, h2, h4, by simp [State.mixed, hm, h1, h3]⟩)

/-- The same for MIX, which stores nothing but the returned sample (R171). -/
theorem execMix_cases (s : State) :
    (s.commitEnabled = false ∧ execMix s = .next s) ∨
    (s.commitEnabled = true ∧ ∃ rs : List (Track × Sample),
      s.tracks.map (seqStep s.rom s.cfg) = rs.map .ok ∧
      execMix s = .next ((s.setTracks (rs.map Prod.fst)).setSample
        (rebias (rs.map fun r => mixTerm s.cfg.attenExp r.2).sum))) ∨
    (s.commitEnabled = true ∧ ∃ (j : Nat) (k : Track) (d : Halt), s.tracks[j]? = some k ∧
      seqStep s.rom s.cfg k = .error d ∧
      execMix s = s.halted (BitVec.ofNat 8 j) k.pos d) := by
  unfold execMix
  cases hc : s.commitEnabled with
  | false => exact .inl ⟨rfl, rfl⟩
  | true =>
    cases hm : mixFrom s.rom s.cfg 0 s.tracks with
    | ok q =>
      obtain ⟨rs, h1, h2, h3⟩ := mixFrom_ok_inv hm
      exact .inr (.inl ⟨rfl, rs, h1, by simp [State.mixed, hm, h2, h3]⟩)
    | error e =>
      obtain ⟨j, k, h1, h2, h3, h4, -⟩ := mixFrom_error_inv hm
      exact .inr (.inr ⟨rfl, j, k, e.halt, h2, h4, by simp [State.mixed, hm, h1, h3]⟩)

/-! ### Steps -/

/-- A step that answers took a move without an operation, or an operation that answers. -/
theorem step_next {s t : State} (h : step s = .next t) :
    (s.operation s.nextEvent = none ∧ t = s.settle s.nextEvent s.popEvent) ∨
    ∃ i u, s.operation s.nextEvent = some i ∧ exec i s = .next u ∧
      t = s.settle s.nextEvent u.popEvent := by
  unfold step at h
  cases ho : s.operation s.nextEvent with
  | none => rw [ho] at h; cases h; exact .inl ⟨rfl, rfl⟩
  | some i =>
    rw [ho] at h
    dsimp only at h
    cases he : exec i s with
    | next u => rw [he] at h; cases h; exact .inr ⟨i, u, rfl, he, rfl⟩
    | fault f => rw [he] at h; cases h
    | refused r => rw [he] at h; cases h

/-- Which operation a move takes, and when. -/
theorem operation_some {s : State} {e : Event} {i : Instr} (h : s.operation e = some i) :
    (e = .tick ∧ i = .tick) ∨ (e = .rst ∧ i = .reset) ∨
    (e = .produce ∧ i = .computeCommit ∧ s.commitEnabled = true) ∨
    (e = .produce ∧ i = .computeStart ∧ s.startEnabled = true) ∨
    (e = .serve ∧ s.initEnabled = true ∧
      ∃ r ws, s.waiting = r :: ws ∧ i = .trackInit r.track r.cfg) := by
  cases e with
  | tick => cases h; exact .inl ⟨rfl, rfl⟩
  | rst => cases h; exact .inr (.inl ⟨rfl, rfl⟩)
  | present g ts => cases h
  | request j c => cases h
  | produce =>
    unfold State.operation at h
    dsimp only at h
    split_ifs at h with h1 h2 <;> cases h
    · exact .inr (.inr (.inl ⟨rfl, rfl, h1⟩))
    · exact .inr (.inr (.inr (.inl ⟨rfl, rfl, h2⟩)))
  | serve =>
    cases hw : s.waiting with
    | nil => simp [State.operation, hw] at h
    | cons r ws =>
      simp only [State.operation, hw] at h
      split_ifs at h with h1
      cases h
      exact .inr (.inr (.inr (.inr ⟨rfl, h1, r, ws, rfl, rfl⟩)))

/-- What a move does besides its operation touches the host's lines and the schedule only. -/
theorem settle_frame (s : State) (e : Event) (u : State) :
    s.settle e u = { u with
      pins := (s.settle e u).pins, waiting := (s.settle e u).waiting } := by
  cases e with
  | serve => unfold State.settle; split_ifs <;> rfl
  | tick => rfl
  | produce => rfl
  | rst => rfl
  | present g ts => rfl
  | request i c => rfl

/-- No operation touches the agents' moves. -/
theorem exec_schedule {i : Instr} {s u : State} (h : exec i s = .next u) :
    u.schedule = s.schedule ∧ u.turn = s.turn := by
  have track : ∀ j, trackOperation i = some j → u.schedule = s.schedule ∧ u.turn = s.turn := by
    intro j hj
    obtain rfl | ⟨k, r, -, rfl⟩ | ⟨k, c, -, rfl⟩ := exec_trackOperation hj h <;> simp
  have mixed : ∀ (o : Host.Outcome State Fault Refusal) (j : TrackId) (pos : Word16) (d : Halt),
      o = s.halted j pos d → o = .next u → u.schedule = s.schedule ∧ u.turn = s.turn := by
    intro o j pos d e ho
    obtain ⟨c, -, rfl⟩ := State.halted_next (e.symm.trans ho)
    simp
  cases i with
  | mix =>
    change execMix s = _ at h
    obtain ⟨-, e⟩ | ⟨-, rs, -, e⟩ | ⟨-, j, k, d, -, -, e⟩ := execMix_cases s
    · cases e.symm.trans h; simp
    · cases e.symm.trans h; simp
    · exact mixed _ _ _ _ e h
  | computeCommit =>
    change execComputeCommit s = _ at h
    obtain ⟨-, e⟩ | ⟨-, rs, -, e⟩ | ⟨-, j, k, d, -, -, e⟩ := execComputeCommit_cases s
    · cases e.symm.trans h; simp
    · cases e.symm.trans h; simp
    · exact mixed _ _ _ _ e h
  | tick => cases h; split_ifs <;> simp
  | computeStart => cases h; split_ifs <;> simp
  | trackInit j c => cases h; split_ifs <;> simp
  | reset => cases h; exact ⟨rfl, rfl⟩
  | genReserved101 j => cases h; exact ⟨rfl, rfl⟩
  | genReserved110 j => cases h; exact ⟨rfl, rfl⟩
  | genReserved111 j => cases h; exact ⟨rfl, rfl⟩
  | note j p t => exact track j rfl
  | rest j t => exact track j rfl
  | saw j => exact track j rfl
  | tri j => exact track j rfl
  | square j => exact track j rfl
  | noise93 j => exact track j rfl
  | noise32k j => exact track j rfl
  | endLoop j => exact track j rfl
  | endStop j => exact track j rfl

/-- A step uses up one move. -/
theorem step_schedule {s t : State} (h : step s = .next t) : t.schedule = s.moves.tail := by
  obtain ⟨-, rfl⟩ | ⟨i, u, -, hu, rfl⟩ := step_next h
  · rw [settle_frame]; rfl
  · rw [settle_frame]
    show u.moves.tail = s.moves.tail
    rw [State.moves, State.moves, (exec_schedule hu).1, (exec_schedule hu).2]

/-! ### Fair runs -/

/-- In a run, the producer's turn comes before a list of moves that holds it is used up. -/
theorem IsRun.turn_of_mem {σ : Nat → State} (h : IsRun σ) (es : List Event) {n : Nat}
    (hn : (σ n).moves = es) (hm : .produce ∈ es) :
    ∃ m, n ≤ m ∧ (σ m).nextEvent = .produce := by
  induction es generalizing n with
  | nil => exact absurd hm List.not_mem_nil
  | cons e es ih =>
    rcases List.mem_cons.1 hm with rfl | hm'
    · exact ⟨n, le_rfl, by simp [State.nextEvent, hn]⟩
    · have hs : (σ (n + 1)).schedule = es := by rw [step_schedule (h n), hn]; rfl
      have hmv : (σ (n + 1)).moves = es := by
        cases es with
        | nil => exact absurd hm' List.not_mem_nil
        | cons e' es' => exact State.moves_cons hs
      obtain ⟨m, hm1, hm2⟩ := ih hmv hm'
      exact ⟨m, by omega, hm2⟩

/-- In a run, the schedule is used up. -/
theorem IsRun.schedule_ends {σ : Nat → State} (h : IsRun σ) (es : List Event) {n : Nat}
    (hn : (σ n).schedule = es) : ∃ m, n ≤ m ∧ (σ m).schedule = [] := by
  induction es generalizing n with
  | nil => exact ⟨n, le_rfl, hn⟩
  | cons e es ih =>
    obtain ⟨m, hm1, hm2⟩ :=
      ih (n := n + 1) (by rw [step_schedule (h n), State.moves_cons hn]; rfl)
    exact ⟨m, by omega, hm2⟩

/-- In every run the producer's turn always comes again. -/
theorem IsRun.producer_turn {σ : Nat → State} (h : IsRun σ) (n : Nat) :
    ∃ m, n ≤ m ∧ (σ m).nextEvent = .produce := by
  obtain ⟨k, hk, he⟩ := h.schedule_ends _ (n := n) rfl
  obtain ⟨m, hm, hp⟩ := h.turn_of_mem _ (n := k) rfl (by simp [State.moves_nil he])
  exact ⟨m, by omega, hp⟩

/-- Every run is weakly fair to the producer, for each of its operations (R196). -/
theorem IsRun.weaklyFair {σ : Nat → State} (h : IsRun σ) (op : Instr) : WeaklyFair σ op := by
  intro n hen
  obtain ⟨m, hm, hp⟩ := h.producer_turn n
  exact ⟨m, hm, hp, hp ▸ hen m hm⟩

end Sys2Proof.Machine
end

