-- ==== Sys2Proof/Laws/PerInstr.lean ====
section
/-! SUPPORT. A law of every operation as its encoding says it: the code of a stream event is one byte or
two, and bit 7 of the first byte alone tells which (spec/30_encoding.md R81); every other code holds
no stream byte. -/

namespace Sys2Proof.Laws

open Sys2Proof

/-- The stream bytes of a code. -/
def streamBytesOf : Code → List Byte
  | .stream _ bs => bs
  | .generator _ _ => []
  | .sampleTick _ => []
  | .trackInit _ _ _ => []
  | .rst _ => []

/-- The bytes an operation occupies in a note stream. -/
def lengthInStream : Instr → Nat
  | .note _ _ _ => 2
  | .rest _ _ => 1
  | _ => 0

/-- The number of stream bytes an operation's code has, and the high bit of the first of them. -/
def EncodedLength.Statement (i : Instr) : Prop :=
  ∀ c, encode i = some c →
    (streamBytesOf c).length = lengthInStream i ∧
    ∀ b bs, streamBytesOf c = b :: bs → (isRestByte b = true ↔ lengthInStream i = 1)

theorem EncodedLength.of_empty {i : Instr} (h0 : lengthInStream i = 0)
    (h : ∀ c, encode i = some c → streamBytesOf c = []) : EncodedLength.Statement i := by
  intro c hc; simp [h c hc, h0]

theorem EncodedLength.note (i : TrackId) (p : Pitch) (t : Byte) :
    EncodedLength.Statement (.note i p t) := by
  intro c hc; cases hc
  exact ⟨rfl, fun b bs h => by cases h; simp [lengthInStream]⟩

theorem EncodedLength.rest (i : TrackId) (t : BitVec 7) : EncodedLength.Statement (.rest i t) := by
  intro c hc; cases hc
  exact ⟨rfl, fun b bs h => by cases h; simp [lengthInStream]⟩

theorem EncodedLength.saw (i : TrackId) : EncodedLength.Statement (.saw i) :=
  of_empty rfl fun c hc => by cases hc; rfl
theorem EncodedLength.tri (i : TrackId) : EncodedLength.Statement (.tri i) :=
  of_empty rfl fun c hc => by cases hc; rfl
theorem EncodedLength.square (i : TrackId) : EncodedLength.Statement (.square i) :=
  of_empty rfl fun c hc => by cases hc; rfl
theorem EncodedLength.noise93 (i : TrackId) : EncodedLength.Statement (.noise93 i) :=
  of_empty rfl fun c hc => by cases hc; rfl
theorem EncodedLength.noise32k (i : TrackId) : EncodedLength.Statement (.noise32k i) :=
  of_empty rfl fun c hc => by cases hc; rfl
theorem EncodedLength.genReserved101 (i : TrackId) : EncodedLength.Statement (.genReserved101 i) :=
  of_empty rfl fun c hc => by cases hc; rfl
theorem EncodedLength.genReserved110 (i : TrackId) : EncodedLength.Statement (.genReserved110 i) :=
  of_empty rfl fun c hc => by cases hc; rfl
theorem EncodedLength.genReserved111 (i : TrackId) : EncodedLength.Statement (.genReserved111 i) :=
  of_empty rfl fun c hc => by cases hc; rfl
theorem EncodedLength.endLoop (i : TrackId) : EncodedLength.Statement (.endLoop i) :=
  of_empty rfl fun c hc => by cases hc
theorem EncodedLength.endStop (i : TrackId) : EncodedLength.Statement (.endStop i) :=
  of_empty rfl fun c hc => by cases hc
theorem EncodedLength.mix : EncodedLength.Statement .mix :=
  of_empty rfl fun c hc => by cases hc
theorem EncodedLength.tick : EncodedLength.Statement .tick :=
  of_empty rfl fun c hc => by cases hc; rfl
theorem EncodedLength.computeStart : EncodedLength.Statement .computeStart :=
  of_empty rfl fun c hc => by cases hc
theorem EncodedLength.computeCommit : EncodedLength.Statement .computeCommit :=
  of_empty rfl fun c hc => by cases hc
theorem EncodedLength.trackInit (i : TrackId) (c : TrackCfg) :
    EncodedLength.Statement (.trackInit i c) :=
  of_empty rfl fun d hd => by cases hd; rfl
theorem EncodedLength.reset : EncodedLength.Statement .reset :=
  of_empty rfl fun c hc => by cases hc; rfl

end Sys2Proof.Laws
end

