-- ==== Sys2Proof/Tests/Slice0.lean ====
section
/-! SUPPORT. Tests: the ill-formed terms each check refuses, words written out from the spec's
encodings, the spec's test vectors (spec/95_test_vectors.md), and for every statement with hypotheses
a state and operands that meet them. -/

namespace Sys2Proof.Tests

open Sys2Proof Sys2Proof.Machine

/-- A field of the next state. -/
def after {α : Type} (o : Host.Outcome State Machine.Fault Refusal) (f : State → α) : Option α :=
  match o with
  | .next t => some (f t)
  | .fault _ => none
  | .refused _ => none

/-- Test memories: FREQ_TABLE[5] = 0, [60] = 0x1000, [61] = 0x2000 as in L2.4. -/
def rom (bytes : List Byte) : Rom :=
  { Rom.initial with
    stream := loadBytes [] 0 bytes, freq := (Rom.initial.freq.set 60 0x1000#16).set 61 0x2000#16 }

/-- An active SAW track at the start of a stream of `n` bytes. -/
def track (n : Nat) : Track :=
  { phase := 0, freqInc := 0, noise := 1, currentNote := 0, rem := 0, pos := 0, active := true,
    loop := false, gen := 0, base := 0, len := BitVec.ofNat 16 n }

/-- A computation in progress over the given tracks, two samples a tick. -/
def block (bytes : List Byte) (ks : List Track) : State :=
  { State.reset with
    tracks := ks, busy := true, ready := true, dac := [128], rom := rom bytes,
    cfg := { GlobalCfg.initial with nTracks := ks.length, samplesPerTick := 2 } }

/-- The registers a generator or event test looks at. -/
def view (t : State) : Option (Word16 × Word16 × Pitch × BitVec 32 × Word16 × Sample) :=
  t.tracks[0]?.map fun k => (k.phase, k.freqInc, k.currentNote, k.rem, k.pos, t.sample)

/-! ### Ill-formed terms -/

theorem test_pitch_72_ill_formed : (Instr.note 0 72 1).wellFormed = false := by decide
theorem test_note_zero_ticks_ill_formed : (Instr.note 0 60 0).wellFormed = false := by decide
theorem test_rest_zero_ticks_ill_formed : (Instr.rest 0 0).wellFormed = false := by decide
theorem test_reserved_codes_ill_formed :
    (Instr.genReserved101 0).wellFormed = false ∧ (Instr.genReserved110 0).wellFormed = false ∧
    (Instr.genReserved111 0).wellFormed = false := by decide
theorem test_track_init_gen_5_ill_formed :
    (Instr.trackInit 0 { TrackCfg.zero with gen := 5 }).wellFormed = false := by decide
theorem test_track_init_window_ill_formed :
    (Instr.trackInit 0 { TrackCfg.zero with base := 0xFFFF, len := 2 }).wellFormed = false := by decide
theorem test_legal_terms_well_formed :
    (Instr.note 0 71 255).wellFormed = true ∧ (Instr.rest 0 127).wellFormed = true ∧
    (Instr.trackInit 0 { TrackCfg.zero with base := 0xFFFF, len := 1 }).wellFormed = true := by decide
/-- R254: a whole legal stream, a NOTE without its tick byte, a REST of 0 ticks. -/
theorem test_stream_well_formed :
    streamWellFormed [0x3C, 0x0A, 0x85] = true ∧ streamWellFormed [0x3C, 0x0A, 0x3C] = false ∧
    streamWellFormed [0x80] = false ∧ streamWellFormed [] = true := by decide

/-! ### Words written out from R82, R83, R86 and L2.1 -/

theorem test_decode_note : decode (.stream 2 [0b00111100#8, 0b00001010#8]) = .ok (.note 2 60 10) := by
  decide
theorem test_decode_note_tick_high_bit : decode (.stream 2 [0x47#8, 0x80#8]) = .ok (.note 2 71 128) := by
  decide
theorem test_decode_note_pitch_72 : decode (.stream 0 [0x48#8, 0x01#8]) = .ok (.note 0 72 1) := by
  decide
theorem test_decode_rest : decode (.stream 2 [0b10000101#8]) = .ok (.rest 2 5) := by decide
theorem test_decode_longest_rest : decode (.stream 2 [0xFF#8]) = .ok (.rest 2 127) := by decide
theorem test_decode_missing_tick : decode (.stream 0 [0x3C#8]) = .error (.missingTick 60) := by decide
theorem test_decode_extra_byte : decode (.stream 0 [0x85#8, 0x01#8]) = .error .extraBytes := by decide
theorem test_decode_no_byte : decode (.stream 0 []) = .error .noByte := by decide
theorem test_decode_saw : decode (.generator 1 0b000#3) = .ok (.saw 1) := by decide
theorem test_decode_tri : decode (.generator 1 0b001#3) = .ok (.tri 1) := by decide
theorem test_decode_square : decode (.generator 1 0b010#3) = .ok (.square 1) := by decide
theorem test_decode_noise93 : decode (.generator 1 0b011#3) = .ok (.noise93 1) := by decide
theorem test_decode_noise32k : decode (.generator 1 0b100#3) = .ok (.noise32k 1) := by decide
theorem test_decode_reserved :
    decode (.generator 1 0b101#3) = .ok (.genReserved101 1) ∧
    decode (.generator 1 0b110#3) = .ok (.genReserved110 1) ∧
    decode (.generator 1 0b111#3) = .ok (.genReserved111 1) := by decide
theorem test_decode_ports :
    decode (.sampleTick 1) = .ok .tick ∧ decode (.rst 1) = .ok .reset ∧
    decode (.trackInit 1 3 TrackCfg.zero) = .ok (.trackInit 3 TrackCfg.zero) ∧
    decode (.rst 0) = .error .noStrobe := by decide
theorem test_no_encoding :
    encode (.endLoop 0) = none ∧ encode (.endStop 0) = none ∧ encode .mix = none ∧
    encode .computeStart = none ∧ encode .computeCommit = none := by decide
/-- L2.1: `REST* 300` and `NOTE* 60, 600`. -/
theorem test_pseudo_instructions :
    assemble (restStar 300) = [0xFF, 0xFF, 0xAE] ∧
    assemble (noteStar 60 600) = [0x3C, 0xFF, 0x3C, 0xFF, 0x3C, 0x5A] := by decide
theorem test_table_words :
    decodeTableWord 16 0x0A3C = some (.note 0 60 10) ∧ decodeTableWord 16 0 = some (.note 0 0 0) ∧
    decodeTableWord 8 0x85 = some (.rest 0 5) ∧ decodeTableWord 8 4 = some (.noise32k 0) ∧
    decodeTableWord 8 7 = some (.genReserved111 0) ∧ decodeTableWord 8 0x3C = some (.note 0 60 0) ∧
    decodeTableWord 1 1 = some .tick := by decide

/-! ### A placed word is run by the next step -/

theorem test_placed_note_runs :
    after (step (State.reset.withFetchWord 16 0x0A3C)) view =
      some (some (0, 0, 60, 9, 2, silence)) := by decide
theorem test_placed_zero_note_faults :
    after (step (State.reset.withFetchWord 16 0)) (fun t => t.fault) =
      some { code := .zeroDuration, track := 0, pos := 0 } := by decide
theorem test_placed_rest_runs :
    after (step (State.reset.withFetchWord 8 0x85)) view =
      some (some (0, 0, 0, 4, 1, silence)) := by decide
theorem test_placed_square_runs :
    after (step (State.reset.withFetchWord 8 2)) (fun t => (t.held, t.busy)) = some (83, false) := by
  decide
theorem test_placed_reserved_code_runs :
    after (step (State.reset.withFetchWord 8 5)) (fun t => t.cfgStatus.bits) = some 7 := by decide
theorem test_placed_tick_runs :
    after (step (State.reset.withFetchWord 1 1)) (fun t => (t.dac, t.ready)) = some ([128], true) := by
  decide

/-! ### Generators (L2.2, L2.3) -/

/-- The samples of phases 0x0080, 0x12F0, 0x7FFF, 0x8000, 0x8001, 0xC000, 0xFFFF. -/
def phases : List Word16 := [0x0080, 0x12F0, 0x7FFF, 0x8000, 0x8001, 0xC000, 0xFFFF]

theorem test_saw_samples : phases.map sawSample = [0, 18, 127, 128, 128, 192, 255] := by decide
theorem test_tri_samples : phases.map triSample = [1, 37, 255, 0, 255, 128, 0] := by decide
theorem test_square_samples : phases.map squareSample = [83, 83, 83, 175, 175, 175, 175] := by decide
theorem test_saw_wraps :
    after (exec (.saw 0) (block [] [{ track 0 with phase := 0xFF00, freqInc := 0x0200, rem := 9 }]))
      view = some (some (0x0100, 0x0200, 0, 9, 0, 255)) := by decide
theorem test_tri_example :
    after (exec (.tri 0)
      (block [] [{ track 0 with phase := 0xC000, freqInc := 0x0400, gen := 1 }])) view =
      some (some (0xC400, 0x0400, 0, 0, 0, 128)) := by decide
theorem test_square_example :
    after (exec (.square 0)
      (block [] [{ track 0 with phase := 0x7FFF, freqInc := 1, gen := 2 }])) view =
      some (some (0x8000, 1, 0, 0, 0, 83)) := by decide
/-- The single clocks of L2.3, taps 14 and 8. -/
theorem test_lfsr_93 :
    ([0x0001, 0x4000, 0x4100, 0x6000, 0x00FF, 0x1234, 0xFFFF, 0x8000] : List Word16).map
      (fun x => lfsrClock x 14 8) =
    [0x0100, 0x0080, 0x0002, 0x00C0, 0xFF7E, 0x343E, 0xFF00, 0x0000] := by decide
/-- The single clocks of L2.3, taps 14 and 13. -/
theorem test_lfsr_32k :
    ([0x0001, 0x4000, 0x4100, 0x6000, 0x00FF, 0x1234, 0xFFFF, 0x8000] : List Word16).map
      (fun x => lfsrClock x 14 13) =
    [0x0100, 0x0080, 0x0086, 0x0040, 0xFF02, 0x346C, 0xFF00, 0x0000] := by decide
/-- The six calls of L2.3 with T = 2. -/
theorem test_noise_hold :
    (playNoise (rom []) 14 8 6 { track 0 with currentNote := 2 }).2 =
      [0x01, 0x01, 0x00, 0x00, 0x00, 0x82] := by decide
theorem test_noise93_clocks :
    after (exec (.noise93 0) (block [] [{ track 0 with freqInc := 1, gen := 3 }]))
      (fun t => t.tracks.map fun k => (k.noise, k.phase)) = some [(0x0100, 0)] := by decide
/-- L2.3: a threshold drop clocks at once. -/
theorem test_noise32k_threshold_drop :
    after (exec (.noise32k 0) (block []
      [{ track 0 with freqInc := 1, gen := 4, noise := 0x0100, phase := 40, currentNote := 5 }]))
      (fun t => (t.sample, t.tracks.map fun k => (k.noise, k.phase))) = some (0x06, [(0x0006, 0)]) := by
  decide
theorem test_generator_not_run_at_increment_zero :
    after (exec (.saw 0) (block [] [{ track 0 with phase := 0x1234 }])) view =
      some (some (0x1234, 0, 0, 0, 0, 128)) := by decide
theorem test_reserved_code_refused :
    after (exec (.genReserved110 0) State.reset) (fun t => (t.cfgStatus.bits, t.held)) =
      some (7, 128) ∧
    after (exec (.genReserved101 0) State.reset) (fun t => t.cfgStatus) = some .gen ∧
    after (exec (.genReserved111 0) State.reset) (fun t => t.cfgStatus) = some .gen := by decide

/-! ### Sequencer (L2.4) -/

theorem test_note_row :
    after (exec (.note 0 60 10) (block [0x3C, 0x0A, 0x85] [track 3])) view =
      some (some (0x1000, 0x1000, 60, 19, 2, 0)) := by decide
theorem test_rest_row :
    after (exec (.rest 0 5) (block [0x3C, 0x0A, 0x85]
      [{ track 3 with pos := 2, phase := 0x4000, freqInc := 0x1000 }])) view =
      some (some (0, 0, 0, 9, 3, 128)) := by decide
theorem test_end_stop_row :
    after (exec (.endStop 0) (block [] [{ track 3 with pos := 3 }]))
      (fun t => (t.sample, t.tracks.map fun k => (k.active, k.rem))) = some (128, [(false, 0)]) := by
  decide
def looping : Track := { track 2 with pos := 2, loop := true, phase := 0xC000, freqInc := 0x4000 }
theorem test_end_loop_silent_row :
    after (exec (.endLoop 0) (block [] [looping])) view =
      some (some (0, 0x4000, 0, 0, 0, 128)) := by decide
def staleBlock : State :=
  let s := block [] [looping]
  { s with cfg := { s.cfg with wrapMode := .stale } }
theorem test_end_loop_stale_row :
    after (exec (.endLoop 0) staleBlock) view = some (some (0x4000, 0x4000, 0, 0, 0, 0)) := by decide
theorem test_inactive_row :
    seqStep (rom []) GlobalCfg.initial { track 3 with active := false, rem := 7, phase := 0x1234 } =
      .ok ({ track 3 with active := false, rem := 7, phase := 0x1234 }, 128) := by decide
theorem test_continuous_phase :
    (match playTrack (rom [0x3C, 0x01, 0x3D, 0x01]) (block [] []).cfg 5 (track 4) with
      | .ok (k, vs) => some (k.phase, k.active, vs)
      | .error _ => none) = some (0x6000, false, [0, 16, 32, 64, 128]) := by decide
theorem test_bad_pitch_before_overrun :
    after (exec .computeCommit (block [0x50] [track 1])) (fun t => (t.fault, t.busy, t.ready)) =
      some ({ code := .badPitch, track := 0, pos := 0 }, false, true) := by decide
theorem test_overrun :
    after (exec .computeCommit (block [0x3C, 0x01, 0x3C] [{ track 3 with pos := 2 }]))
      (fun t => (t.fault, t.held)) = some ({ code := .streamOverrun, track := 0, pos := 2 }, 128) := by
  decide

/-! ### Mixer (L2.5) -/

theorem test_shift_rounds_down :
    mixTerm 1 83 = -23 ∧ mixTerm 3 127 = -1 ∧ mixTerm 5 0 = -4 ∧ mixTerm 1 175 = 23 := by decide
def halved (s : State) : State := { s with cfg := { s.cfg with attenExp := 1 } }
/-- Program P3's first two tracks' first samples: 105. -/
theorem test_mix_two_tracks :
    after (exec .mix (halved (block []
      [{ track 0 with freqInc := 0x8000, gen := 2, rem := 3 }, { track 0 with rem := 8 }])))
      (fun t => (t.sample, t.held)) = some (105, 128) := by decide
theorem test_lowest_fault_recorded :
    after (exec .computeCommit (halved (block [0x3C, 0x50]
      [track 1, { track 1 with base := 1 }]))) (fun t => t.fault) =
      some { code := .streamOverrun, track := 0, pos := 0 } := by decide

/-! ### Pipeline and host operations (L2.6, L2.7, L2.8) -/

theorem test_tick :
    after (exec .tick { State.reset with held := 151 }) (fun t => (t.dac, t.ready)) =
      some ([151], true) := by decide
theorem test_tick_not_taken_when_refused :
    after (exec .tick { State.reset with cfgStatus := .gen }) (fun t => (t.dac, t.ready)) =
      some ([], false) := by decide
theorem test_compute_start :
    after (exec .computeStart { State.reset with ready := true }) (fun t => (t.busy, t.ready)) =
      some (true, true) := by decide
theorem test_compute_start_not_enabled :
    after (exec .computeStart State.reset) (fun t => t.busy) = some false := by decide
theorem test_compute_commit :
    after (exec .computeCommit
      (block [] [{ track 1 with phase := 0x2000, freqInc := 0x1000, rem := 3 }]))
      (fun t => (t.held, t.ready, t.busy, t.tracks.map fun k => (k.phase, k.rem))) =
      some (32, false, false, [(0x3000, 2)]) := by decide
def sawCfg : TrackCfg := { base := 0x0100, len := 3, gen := 0, playing := true, loopsOnEnd := false }
theorem test_track_init :
    after (exec (.trackInit 0 sawCfg) State.reset)
      (fun t => (t.answers, t.tracks.map fun k => (k.active, k.base, k.len, k.noise))) =
      some ([.accepted], [(true, 0x0100, 3, 1)]) := by decide
theorem test_track_init_refused :
    after (exec (.trackInit 1 sawCfg) State.reset)
      (fun t => (t.answers, t.tracks.map fun k => k.active)) = some ([.refused], [false]) := by decide
def pins (n e spt : Nat) (c : TrackCfg) (seed : Word16) : Pins :=
  { global := { nTracks := n, attenExp := e, samplesPerTick := spt, noiseSeed := seed,
                wrapMode := .silent },
    tracks := [c] }
def cfg1 : TrackCfg := { TrackCfg.zero with len := 1 }
theorem test_configuration_checks :
    (pins 1 0 1 cfg1 1).check = .accepted ∧ (pins 0 0 1 cfg1 1).check = .nTracks ∧
    (pins 257 7 1 cfg1 1).check = .nTracks ∧ (pins 1 8 1 cfg1 1).check = .attenRange ∧
    (pins 2 0 1 cfg1 1).check = .attenPos ∧ (pins 17 4 1 cfg1 1).check = .attenNeg ∧
    (pins 1 0 0 cfg1 1).check = .sptZero ∧ (pins 1 0 16843009 cfg1 1).check = .accepted ∧
    (pins 1 0 16843010 cfg1 1).check = .sptOverflow := by decide
theorem test_configuration_checks_of_tracks :
    (pins 1 0 1 { cfg1 with gen := 5 } 1).check = .gen ∧
    (pins 1 0 1 { cfg1 with base := 0xFFFF } 1).check = .accepted ∧
    (pins 1 0 1 { cfg1 with base := 0xFFFF, len := 2 } 1).check = .window ∧
    (pins 1 0 1 cfg1 0x8000).check = .seed ∧ (pins 1 0 1 cfg1 0x8001).check = .accepted ∧
    (pins 0 9 0 cfg1 1).check = .nTracks ∧ (pins 16 4 1 cfg1 1).check = .accepted := by decide
def triCfg : TrackCfg := { base := 0x0100, len := 3, gen := 1, playing := true, loopsOnEnd := true }
theorem test_reset_row :
    after (exec .reset { State.reset with pins := pins 1 0 1 triCfg 0x00A5, busy := true })
      (fun t => (t.busy, t.held, t.cfgStatus, t.tracks)) =
      some (false, 128, .accepted,
        [{ phase := 0, freqInc := 0, noise := 0x00A5, currentNote := 0, rem := 0, pos := 0,
           active := true, loop := true, gen := 1, base := 0x0100, len := 3 }]) := by decide
theorem test_reset_state_is_a_reset : State.reset.doReset = State.reset := rfl
theorem test_reset_status :
    State.reset.status =
      { active := [false], held := 128, ready := false,
        faultCode := 0, faultTrack := 0, faultPos := 0, cfgStatus := 0 } := by decide

/-! ### Witnesses: for each statement with hypotheses, a case of every clause that meets them -/

/-- A track in the middle of an audible note with generator code `g`. -/
def playing (g : BitVec 3) : Track := { track 3 with freqInc := 0x1000, gen := g, rem := 3 }
/-- P1's stream and its track, at the NOTE. -/
def p1 : State := block [0x3C, 0x0A, 0x85] [track 3]
/-- P1's track at the REST. -/
def atRest : Track := { track 3 with pos := 2 }
def p1Rest : State := block [0x3C, 0x0A, 0x85] [atRest]

theorem witness_DecodeOfEncodeIsIdentity :
    encode (.note 1 127 255) = some (.stream 1 [0x7F, 0xFF]) := by decide
theorem witness_EncodeOfDecodeIsIdentity : decode (.stream 1 [0xFF]) = .ok (.rest 1 127) := by decide
theorem witness_FirstByteDecidesTheEvent :
    decodeEvent [0x47, 1] = .ok (.note 71 1, []) ∧ decodeEvent [0x48, 1] = .ok (.note 72 1, []) ∧
    decodeEvent [0x7F, 1] = .ok (.note 127 1, []) ∧ decodeEvent [0x80] = .ok (.rest 0, []) ∧
    decodeEvent [0x81] = .ok (.rest 1, []) ∧ decodeEvent [0xFF] = .ok (.rest 127, []) := by decide
/-- A track before `NOTE* 60, 256`, and one before `REST* 128`. -/
def longNote : Track := { track 4 with gen := 2 }
theorem witness_PseudoInstructionsExpandExactly :
    (71 : Pitch).toNat ≤ 71 ∧ configInRange GlobalCfg.initial ∧ longNote.gen.toNat ≤ 4 ∧
    longNote.standsBefore (rom [0x3C, 0xFF, 0x3C, 0x01]) (noteStar 60 256) ∧
    (track 2).standsBefore (rom [0xFF, 0x81]) (restStar 128) := by decide
theorem witness_SawReturnsHighByte :
    (block [] [playing 0]).computing 0 (playing 0) ∧ (playing 0).active = true ∧
    (playing 0).freqInc ≠ 0 ∧ (playing 0).gen = 0b000#3 := by decide
theorem witness_TriReturnsRamp :
    (block [] [playing 1]).computing 0 (playing 1) ∧ (playing 1).active = true ∧
    (playing 1).freqInc ≠ 0 ∧ (playing 1).gen = 0b001#3 := by decide
theorem witness_TriangleIsSymmetric : 1 ≤ (0x7FFF : Word16).toNat ∧ (0x7FFF : Word16).toNat ≤ 0x7FFF := by
  decide
theorem witness_SquareReturnsTwoLevels :
    (block [] [playing 2]).computing 0 (playing 2) ∧ (playing 2).active = true ∧
    (playing 2).freqInc ≠ 0 ∧ (playing 2).gen = 0b010#3 := by decide
theorem witness_Noise93CountsThenClocks :
    (block [] [playing 3]).computing 0 (playing 3) ∧ (playing 3).active = true ∧
    (playing 3).freqInc ≠ 0 ∧ (playing 3).gen = 0b011#3 := by decide
theorem witness_Noise32kCountsThenClocks :
    (block [] [playing 4]).computing 0 (playing 4) ∧ (playing 4).active = true ∧
    (playing 4).freqInc ≠ 0 ∧ (playing 4).gen = 0b100#3 := by decide
/-- Bit 14 set and bit 8 clear: a 1 enters bit 0 and the tap moves to bit 15. -/
theorem witness_LfsrShiftsTapsIn : lfsrShift 0x4000 14 8 = 0x8001 ∧ (0 : Nat) < 15 ∧ 14 < 15 := by decide
theorem witness_Noise93LfsrRepeatsEvery93Clocks : lfsrClocks 14 8 1 0x0001 = 0x0100 ∧ 1 ≤ 1 := by decide
theorem witness_LfsrNeverLocksWhenAlive : lfsrAlive 0x4000 ∧ ¬ lfsrAlive 0x8000 := by decide
theorem witness_NoiseHoldsForThresholdCalls :
    (noiseThreshold (rom []) (track 0).currentNote).toNat = 0 ∧ (track 0).phase = 0 ∧
    (noiseThreshold (rom []) 71).toNat = 71 := by decide
theorem witness_GeneratorsAreGated :
    (block [] [track 0]).tracks[(0 : TrackId).toNat]? = some (track 0) ∧ (track 0).freqInc = 0 := by
  decide
theorem witness_ReservedGeneratorCodesAreRefused :
    configInRange State.reset.pins.global ∧ (0 : TrackId).toNat < State.reset.pins.global.nTracks := by
  decide
theorem witness_NoteResolvesAndPlays :
    p1.computing 0 (track 3) ∧ (track 3).atEvent = true ∧
    (track 3).pos.toNat + 1 < (track 3).len.toNat ∧ (10 : Byte) ≠ 0 ∧ (track 3).gen.toNat ≤ 4 ∧
    p1.rom.freq[60] ≠ 0 ∧ p1.rom.freq[5] = 0 := by decide
theorem witness_NoteFaultsInOrder :
    p1.computing 0 (track 3) ∧ (track 3).atEvent = true ∧ p1.fault.code = .none ∧
    71 < (72 : Pitch).toNat ∧ (71 : Pitch).toNat ≤ 71 ∧
    (track 3).pos.toNat + 1 < (track 3).len.toNat ∧
    (block [0x3C] [track 1]).computing 0 (track 1) ∧ (track 1).atEvent = true ∧
    (track 1).len.toNat ≤ (track 1).pos.toNat + 1 := by decide
theorem witness_RestResolvesSilently :
    p1Rest.computing 0 atRest ∧ atRest.atEvent = true ∧ (1 : BitVec 7) ≠ 0 ∧
    p1Rest.fault.code = .none := by decide
theorem witness_EndLoopRestartsTheStream :
    (block [] [looping]).computing 0 looping ∧ staleBlock.computing 0 looping ∧
    looping.active = true ∧ looping.rem = 0 ∧ looping.pos = looping.len ∧ looping.loop = true ∧
    (block [] [looping]).cfg.wrapMode = .silent ∧ staleBlock.cfg.wrapMode = .stale ∧
    looping.freqInc ≠ 0 ∧ looping.gen.toNat ≤ 4 := by decide
def stopping : Track := { track 3 with pos := 3 }
theorem witness_EndStopSilencesTheTrack :
    (block [] [stopping]).computing 0 stopping ∧ stopping.active = true ∧ stopping.rem = 0 ∧
    stopping.pos = stopping.len ∧ stopping.loop = false := by decide
theorem witness_SequencerOperationsAreGated :
    (block [] [playing 0]).tracks[(0 : TrackId).toNat]? = some (playing 0) ∧ (playing 0).rem ≠ 0 := by
  decide
theorem witness_SequencerWithinAnEvent :
    (playing 2).active = true ∧ (playing 2).rem ≠ 0 ∧ (playing 2).freqInc ≠ 0 ∧
    genDispatch (rom []) (playing 2) = .ok (squareStep (playing 2)) ∧
    ({ track 3 with rem := 1 } : Track).freqInc = 0 := by decide
theorem witness_SequencerRunsTheDecodedEvent :
    p1.computing 0 (track 3) ∧ (track 3).atEvent = true ∧
    fetchEvent p1.rom (track 3) = .ok [0x3C, 0x0A] ∧
    decode (.stream 0 [0x3C, 0x0A]) = .ok (.note 0 60 10) ∧
    fetchEvent p1Rest.rom atRest = .ok [0x85] ∧ looping.atLoopEnd = true ∧
    stopping.atStopEnd = true ∧ (track 1).atEvent = true ∧
    fetchEvent (rom [0x50]) (track 1) = .ok [0x50] ∧
    decode (.stream 0 [0x50]) = .error (.missingTick 80) ∧
    (block [] [playing 2]).computing 0 (playing 2) ∧ (playing 2).freqInc ≠ 0 ∧
    decode (.generator 0 (playing 2).gen) = .ok (.square 0) := by decide
theorem witness_FetchReadsTheCursor :
    (track 3).pos.toNat < (track 3).len.toNat ∧ (track 3).base.toNat + (track 3).len.toNat ≤ 65536 ∧
    memRead p1.rom 0 = some 0x3C ∧ memRead p1.rom 2 = some 0x85 := by decide
theorem witness_NoteLastsItsDuration :
    configInRange GlobalCfg.initial ∧ (60 : Pitch).toNat ≤ 71 ∧ (10 : Byte) ≠ 0 ∧
    (track 3).active = true ∧ (track 3).gen.toNat ≤ 4 ∧
    (track 3).pos.toNat + 1 < (track 3).len.toNat ∧
    0 < (10 : Byte).toNat * GlobalCfg.initial.samplesPerTick := by decide
theorem witness_RestLastsItsDuration :
    configInRange GlobalCfg.initial ∧ (1 : BitVec 7) ≠ 0 ∧ (track 3).active = true ∧
    0 < (1 : BitVec 7).toNat * GlobalCfg.initial.samplesPerTick := by decide
theorem witness_CursorStaysInTheWindow :
    (track 3).pos.toNat ≤ (track 3).len.toNat ∧
    (match seqStep p1.rom p1.cfg (track 3) with
      | .ok (k, _) => some k.pos
      | .error _ => none) = some 2 := by decide
theorem witness_StoppedTrackStaysSilent :
    stopping.active = true ∧ stopping.rem = 0 ∧ stopping.pos = stopping.len ∧ stopping.loop = false := by
  decide
theorem witness_WellFormedStreamNeverFaults : (track 3).ok ∧ (track 3).playsWellFormed p1.rom := by
  decide

/-- Two silent tracks, and what their steps answer. -/
def resting : Track := { track 3 with rem := 2 }
def rested : Track × Sample := ({ track 3 with rem := 1 }, 128)
def twoResting : State := halved (block [] [resting, resting])
theorem witness_MixSumsEveryTrack :
    twoResting.commitEnabled = true ∧
    twoResting.tracks.map (seqStep twoResting.rom twoResting.cfg) = [rested, rested].map .ok := by
  decide
theorem witness_SilentTracksMixToSilence :
    twoResting.commitEnabled = true ∧
    twoResting.tracks.map (seqStep twoResting.rom twoResting.cfg) = [rested, rested].map .ok ∧
    ∀ r ∈ [rested, rested], r.2 = 128#8 := by decide
theorem witness_MixNeverOverflows :
    configInRange (pins 128 7 1 cfg1 1).global ∧ configInRange (pins 1 0 1 cfg1 1).global := by decide
/-- Track 0 rests; track 1 plays a NOTE whose tick byte is missing. -/
def secondFaults : State := halved (block [0x3C] [resting, track 1])
theorem witness_LowestFaultingTrackIsRecorded :
    secondFaults.commitEnabled = true ∧ secondFaults.fault.code = .none ∧
    secondFaults.tracks[1]? = some (track 1) ∧
    seqStep secondFaults.rom secondFaults.cfg (track 1) = .error (.raised .streamOverrun) ∧
    seqStep secondFaults.rom secondFaults.cfg resting = .ok rested := by decide
theorem witness_TickWritesHeldAndSetsReady :
    State.reset.resetDone = true ∧ State.reset.cfgStatus = .accepted := by decide
def asked : State := { State.reset with ready := true }
theorem witness_ComputeStartSetsBusy :
    asked.resetDone = true ∧ asked.cfgStatus = .accepted ∧ asked.ready = true ∧ asked.busy = false ∧
    asked.fault.code = .none ∧ State.reset.ready = false := by decide
theorem witness_ComputeCommitStoresTheMix :
    twoResting.resetDone = true ∧ twoResting.cfgStatus = .accepted ∧ twoResting.busy = true ∧
    twoResting.tracks.map (seqStep twoResting.rom twoResting.cfg) = [rested, rested].map .ok := by
  decide
theorem witness_CommitCompletesOnWellFormedStreams :
    p1.Inv ∧ p1.commitEnabled = true ∧ ∀ k ∈ p1.tracks, k.playsWellFormed p1.rom := by decide
theorem witness_TrackInitLoadsOneTrack :
    State.reset.resetDone = true ∧ State.reset.cfgStatus = .accepted ∧ State.reset.busy = false ∧
    (0 : TrackId).toNat < State.reset.cfg.nTracks ∧ sawCfg.gen.toNat ≤ 4 ∧
    sawCfg.base.toNat + sawCfg.len.toNat ≤ 65536 := by decide
def requesting : State :=
  { p1 with schedule := [.serve], waiting := [{ track := 0, cfg := sawCfg }] }
theorem witness_TrackInitRefusesOrWaits :
    State.reset.busy = false ∧ State.reset.cfg.nTracks ≤ (1 : TrackId).toNat ∧
    4 < ({ sawCfg with gen := 5 } : TrackCfg).gen.toNat ∧ requesting.busy = true ∧
    requesting.schedule = .serve :: [] ∧ requesting.waiting = [{ track := 0, cfg := sawCfg }] := by
  decide
theorem witness_ResetGivesEveryRegisterItsValue :
    State.reset.pins.check = .accepted ∧ (pins 2 0 1 cfg1 1).check ≠ .accepted := by decide
theorem witness_ConfigurationChecksInOrder :
    (pins 1 0 1 cfg1 1).global.nTracks = 1 ∧ (pins 1 0 1 cfg1 1).global.attenExp = 0 ∧
    (pins 1 0 1 cfg1 1).global.samplesPerTick = 1 := by decide
theorem witness_StateAfterReset : State.reset.tracks.length = 1 := by decide
theorem witness_OnlyResetLeavesARefusedBlock :
    ({ State.reset with cfgStatus := .gen } : State).cfgStatus ≠ .accepted ∧
    ({ State.reset with resetDone := false } : State).resetDone = false ∧
    isReset .tick = false := by decide
def late : State := { p1 with schedule := [.tick, .produce] }
theorem witness_TickDuringComputationIsLost :
    late.Inv ∧ late.resetDone = true ∧ late.cfgStatus = .accepted ∧ late.busy = true ∧
    late.fault.code = .none ∧ late.schedule = .tick :: .produce :: [] ∧
    after (Host.Core.run Sys2Proof.core 2 late) (fun t => (t.fault.code, t.dac, t.ready)) =
      some (FaultCode.none, [128, 128], false) := ⟨by decide, by decide⟩
def eager : State :=
  { twoResting with busy := false, schedule := [.tick, .produce, .produce, .tick] }
theorem witness_EagerRoundHasOneSampleOfLatency :
    eager.resetDone = true ∧ eager.cfgStatus = .accepted ∧ eager.busy = false ∧
    eager.fault.code = .none ∧ eager.schedule = .tick :: .produce :: .produce :: .tick :: [] ∧
    eager.tracks.map (seqStep eager.rom eager.cfg) = [rested, rested].map .ok := by decide
theorem witness_StepRunsTheScheduledOperation :
    late.schedule = .tick :: [.produce] ∧ late.operation .tick = some .tick ∧
    after (exec .tick late) (fun t => t.ready) = some true ∧
    (block [] [playing 7]).operation .produce = some .computeCommit ∧
    requesting.operation .serve = none ∧
    after (step { requesting with busy := false }) (fun t => (t.waiting, t.answers)) =
      some ([], [InitAnswer.accepted]) ∧
    after (step { late with schedule := [.request 0 sawCfg] }) (fun t => t.waiting) =
      some [{ track := 0, cfg := sawCfg }] ∧
    after (step { late with schedule := [.present (pins 1 0 1 cfg1 1).global [cfg1]] })
      (fun t => t.pins) = some (pins 1 0 1 cfg1 1) := by decide
def p1Asked : State := { p1 with busy := false }
theorem witness_AgentsTakeTheirOperations :
    p1.Inv ∧ p1Asked.Inv ∧ p1.commitEnabled = true ∧ p1Asked.startEnabled = true ∧
    p1.live = true ∧ p1.busy = true ∧ asked.live = true ∧ asked.ready = true ∧ asked.busy = false ∧
    asked.fault.code = .none ∧ State.reset.busy = false ∧ State.reset.ready = false ∧
    ({ requesting with busy := false } : State).waiting = [{ track := 0, cfg := sawCfg }] :=
  ⟨by decide, by decide, by decide⟩
theorem witness_NoStepWritesMemory :
    after (step late) (fun t => memRead t.rom 2) = some (memRead late.rom 2) := by decide
theorem witness_ConfigurationChangesOnlyAtReset :
    after (step late) (fun t => t.dac) = some [128, 128] ∧ late.nextEvent ≠ .rst := by decide
theorem witness_TrackOperationFrame :
    trackOperation (.note 0 60 10) = some 0 ∧
    after (exec (.note 0 60 10) p1) (fun t => t.busy) = some true := by decide
def faulted : State :=
  { p1 with fault := { code := .badPitch, track := 0, pos := 0 }, busy := false, schedule := [.tick] }
theorem witness_FaultIsSticky :
    faulted.fault.code ≠ .none ∧ faulted.nextEvent ≠ .rst ∧ faulted.busy = false ∧
    after (step faulted) (fun t => t.ready) = some true := by decide
/-- The two blocks agree on track 0 and differ in track 1. -/
def otherTrack : State := halved (block [] [resting, { resting with rem := 7 }])
theorem witness_TracksDoNotInterfere :
    twoResting.commitEnabled = true ∧ otherTrack.commitEnabled = true ∧
    twoResting.tracks[0]? = otherTrack.tracks[0]? ∧ twoResting.tracks[1]? ≠ otherTrack.tracks[1]? ∧
    twoResting.fault.code = .none ∧ otherTrack.fault.code = .none ∧
    after (exec .computeCommit twoResting) (fun t => t.fault.code) = some .none ∧
    after (exec .computeCommit otherTrack) (fun t => t.fault.code) = some .none := by decide
/-- The two blocks of the last witness agree on the memories and the configuration. -/
theorem witness_TracksDoNotInterfere_constants :
    twoResting.rom = otherTrack.rom ∧ twoResting.cfg = otherTrack.cfg := ⟨rfl, rfl⟩
theorem witness_OnlyImpossibleTracksStop :
    (match exec .computeCommit (block [] [playing 7]) with
      | .fault f => some f
      | .next _ => none
      | .refused _ => none) = some (.noGenerator 7) := by decide
theorem witness_InvariantStatesNeverStop : late.Inv := by decide
theorem witness_EveryStepKeepsTheInvariant :
    late.Inv ∧ after (step late) (fun t => t.dac) = some [128, 128] := by decide

end Sys2Proof.Tests
end

section
/-! PROOFS. Nothing writes the two read-only memories (spec/20_memory.md R63): no operation, and no
move of an agent besides its operation. -/

namespace Sys2Proof.Machine

open Sys2Proof

/-- Ending an operation without a result leaves the memories (R221). -/
theorem State.halted_rom {s t : State} {i : TrackId} {pos : Word16} {d : Halt}
    (h : s.halted i pos d = .next t) : t.rom = s.rom := by
  obtain ⟨c, -, rfl⟩ := State.halted_next h
  exact s.takeFault_rom c i pos

@[simp] theorem State.doReset_rom (s : State) : s.doReset.rom = s.rom := rfl

@[simp] theorem State.resetWithGen_rom (s : State) (i : TrackId) (g : BitVec 3) :
    (s.resetWithGen i g).rom = s.rom := rfl

@[simp] theorem State.settle_rom (s : State) (e : Event) (u : State) :
    (s.settle e u).rom = u.rom := by
  rw [settle_frame]

theorem exec_rom_of_trackOperation {x : Instr} {i : TrackId} {s t : State}
    (hx : trackOperation x = some i) (h : exec x s = .next t) : t.rom = s.rom := by
  obtain rfl | ⟨k, r, -, rfl⟩ | ⟨k, c, -, rfl⟩ := exec_trackOperation hx h
  · rfl
  · exact s.put_rom i r
  · exact s.takeFault_rom c i k.pos

theorem execMix_rom {s t : State} (h : execMix s = .next t) : t.rom = s.rom := by
  obtain ⟨-, e⟩ | ⟨-, rs, -, e⟩ | ⟨-, j, k, d, -, -, e⟩ := execMix_cases s
  · cases e.symm.trans h; rfl
  · cases e.symm.trans h; simp
  · exact State.halted_rom (e.symm.trans h)

theorem execComputeCommit_rom {s t : State} (h : execComputeCommit s = .next t) :
    t.rom = s.rom := by
  obtain ⟨-, e⟩ | ⟨-, rs, -, e⟩ | ⟨-, j, k, d, -, -, e⟩ := execComputeCommit_cases s
  · cases e.symm.trans h; rfl
  · cases e.symm.trans h; simp
  · exact State.halted_rom (e.symm.trans h)

/-- No operation writes the memories (R63). -/
theorem exec_rom {x : Instr} {s t : State} (h : exec x s = .next t) : t.rom = s.rom := by
  cases hx : trackOperation x with
  | some i => exact exec_rom_of_trackOperation hx h
  | none =>
    cases x with
    | mix => exact execMix_rom h
    | computeCommit => exact execComputeCommit_rom h
    | tick => cases h; split_ifs <;> simp
    | computeStart => cases h; split_ifs <;> simp
    | trackInit j c => cases h; split_ifs <;> simp
    | reset => cases h; exact s.doReset_rom
    | genReserved101 j => cases h; exact s.resetWithGen_rom j _
    | genReserved110 j => cases h; exact s.resetWithGen_rom j _
    | genReserved111 j => cases h; exact s.resetWithGen_rom j _
    | _ => cases hx

/-- No step writes the memories (R63). -/
theorem step_rom {s t : State} (h : step s = .next t) : t.rom = s.rom := by
  obtain ⟨-, rfl⟩ | ⟨x, u, -, hu, rfl⟩ := step_next h
  · simp
  · simpa using exec_rom hu

/-- Settles O52: a step keeps the whole record of the run's constants, so every read of it answers
as before. -/
theorem noStepWritesMemory : Obligations.NoStepWritesMemory := by
  intro s t h
  have hrom : t.rom = s.rom := step_rom h
  exact ⟨fun a => by rw [hrom], fun p => by rw [hrom], hrom⟩

end Sys2Proof.Machine
end

section
/-! PROOFS. The opcode map: what the value of an event's first byte decides
(spec/30_encoding.md R81 to R83, R87). -/

namespace Sys2Proof.Machine

open Sys2Proof

/-! ### The first byte, read as a number -/

/-- Bit 7 splits the byte values at 0x80 (R81). -/
theorem isRestByte_eq_decide (b : Byte) : isRestByte b = decide (0x80 ≤ b.toNat) :=
  BitVec.msb_eq_decide b

theorem lowBits_toNat (b : Byte) : (lowBits b).toNat = b.toNat % 0x80 := by
  simp [lowBits]

theorem lowBits_toNat_of_lt {b : Byte} (h : b.toNat < 0x80) : (lowBits b).toNat = b.toNat := by
  rw [lowBits_toNat, Nat.mod_eq_of_lt h]

theorem lowBits_toNat_of_le {b : Byte} (h : 0x80 ≤ b.toNat) :
    (lowBits b).toNat = b.toNat - 0x80 := by
  have hb := b.isLt
  rw [lowBits_toNat]
  omega

/-! ### The event the first byte begins -/

/-- A first byte below 0x80 and a tick byte are a NOTE (R83). -/
theorem decodeEvent_of_lt {b0 : Byte} (h : b0.toNat < 0x80) (b1 : Byte) (bs : List Byte) :
    decodeEvent (b0 :: b1 :: bs) = .ok (.note (lowBits b0) b1, bs) := by
  have hb : isRestByte b0 = false := by rw [isRestByte_eq_decide]; exact decide_eq_false (by omega)
  simp [decodeEvent, hb]

/-- A first byte from 0x80 on is a REST by itself (R82). -/
theorem decodeEvent_of_le {b0 : Byte} (h : 0x80 ≤ b0.toNat) (bs : List Byte) :
    decodeEvent (b0 :: bs) = .ok (.rest (lowBits b0), bs) := by
  have hb : isRestByte b0 = true := by rw [isRestByte_eq_decide]; exact decide_eq_true h
  simp [decodeEvent, hb]

/-! ### The faults of the illegal events -/

theorem noteStep_badPitch {p : Pitch} (hp : 72 ≤ p.toNat) (rom : Rom) (cfg : GlobalCfg) (t : Byte)
    (k : Track) : noteStep rom cfg p t k = .error (.raised .badPitch) := by
  obtain ⟨-, e⟩ | ⟨h, -⟩ | ⟨h, -⟩ | ⟨h, -⟩ := noteStep_cases rom cfg p t k
  · exact e
  all_goals omega

theorem noteStep_zeroDuration {p : Pitch} {k : Track} (hp : p.toNat < 72)
    (hk : k.pos.toNat + 1 < k.len.toNat) (rom : Rom) (cfg : GlobalCfg) :
    noteStep rom cfg p 0 k = .error (.raised .zeroDuration) := by
  obtain ⟨h, -⟩ | ⟨-, h, -⟩ | ⟨-, -, -, e⟩ | ⟨-, -, h, -⟩ := noteStep_cases rom cfg p 0 k
  · omega
  · omega
  · exact e
  · exact absurd rfl h

theorem restStep_zeroDuration (rom : Rom) (cfg : GlobalCfg) (k : Track) :
    restStep rom cfg 0 k = .error (.raised .zeroDuration) := by
  obtain ⟨-, e⟩ | ⟨h, -⟩ := restStep_cases rom cfg 0 k
  · exact e
  · exact absurd rfl h

/-! ### The legal events -/

theorem note_wellFormed {p : Pitch} {t : Byte} (hp : p.toNat ≤ 71) (ht : t ≠ 0) :
    (StreamEvent.note p t).wellFormed = true := by
  simpa [StreamEvent.wellFormed, hp] using ht

theorem rest_wellFormed {t : BitVec 7} (ht : t ≠ 0) : (StreamEvent.rest t).wellFormed = true :=
  decide_eq_true ht

/-- Settles O4: in each range of R87 the operand is the byte's low seven bits, whose value fixes
the event, its legality and its fault. -/
theorem firstByteDecidesTheEvent : Obligations.FirstByteDecidesTheEvent := by
  intro b0 b1 rom cfg k
  refine ⟨fun h => ?legalPitch, fun h => ?badPitch, fun h => ?zeroRest, fun h => ?legalRest⟩
  case legalPitch =>
    have hp : (lowBits b0).toNat = b0.toNat := lowBits_toNat_of_lt (by omega)
    refine ⟨lowBits b0, hp, decodeEvent_of_lt (by omega) b1 [], note_wellFormed (by omega), ?_⟩
    rintro rfl hk
    exact noteStep_zeroDuration (by omega) hk rom cfg
  case badPitch =>
    have hp : (lowBits b0).toNat = b0.toNat := lowBits_toNat_of_lt (by omega)
    exact ⟨lowBits b0, hp, decodeEvent_of_lt (by omega) b1 [],
      noteStep_badPitch (by omega) rom cfg b1 k⟩
  case zeroRest =>
    have ht : lowBits b0 = 0 := BitVec.eq_of_toNat_eq (by rw [lowBits_toNat, h]; rfl)
    exact ⟨ht ▸ decodeEvent_of_le (by omega) [], restStep_zeroDuration rom cfg k⟩
  case legalRest =>
    have ht : (lowBits b0).toNat = b0.toNat - 0x80 := lowBits_toNat_of_le (by omega)
    have h0 : lowBits b0 ≠ 0 := fun e => by
      rw [e, BitVec.ofNat_eq_ofNat, BitVec.toNat_zero] at ht
      omega
    exact ⟨lowBits b0, ht, decodeEvent_of_le (by omega) [], rest_wellFormed h0⟩

end Sys2Proof.Machine
end

section
/-! PROOFS. The tonal generators: the phase advances modulo 2^16 and the sample is a function of the
phase before the advance (spec/40_generators.md R110, R113 to R116). -/

namespace Sys2Proof.Machine

open Sys2Proof

/-! ### The generator operations on one track -/

/-- What lets a generator be invoked for a track (R110). -/
theorem Track.generates_iff {code : BitVec 3} {k : Track} :
    k.generates code = true ↔ k.active = true ∧ k.freqInc ≠ 0 ∧ k.gen = code := by
  simp [Track.generates, and_assoc]

/-- A generator invoked during a computation writes back the track and the sample it answers
(R12, R110). -/
theorem State.onTrack_generates {s : State} {i : TrackId} {k : Track} {code : BitVec 3}
    (f : Track → Track × Sample) (h : s.computing i k) (ha : k.active = true)
    (hinc : k.freqInc ≠ 0) (hg : k.gen = code) :
    s.onTrack i (Track.generates code) (fun k => .ok (f k)) = .next (s.put i (f k)) :=
  State.onTrack_taken h (Track.generates_iff.mpr ⟨ha, hinc, hg⟩)

/-- The phase advance, as addition of numbers modulo 2^16 (R113). -/
theorem Track.advance_eq (k : Track) :
    k.advance = { k with phase := BitVec.ofNat 16 (k.phase.toNat + k.freqInc.toNat) } := by
  rw [Track.advance, BitVec.ofNat_add, BitVec.ofNat_toNat, BitVec.ofNat_toNat, BitVec.setWidth_eq,
    BitVec.setWidth_eq]

/-! ### The samples, read off the phase's number -/

theorem sawSample_eq (a : Word16) : sawSample a = BitVec.ofNat 8 (a.toNat / 256) :=
  BitVec.eq_of_toNat_eq (by simp [sawSample, Nat.shiftRight_eq_div_pow])

/-- The source's shift by 8 is division by 256 (R115). -/
theorem triSample_eq (a : Word16) :
    triSample a =
      if a.toNat < 0x8000 then BitVec.ofNat 8 ((a.toNat * 2) >>> 8)
      else BitVec.ofNat 8 ((65536 - 2 * (a.toNat - 32768)) >>> 8) := by
  simp only [triSample, Nat.shiftRight_eq_div_pow, Nat.reducePow]

/-- Bit 15 of the phase is set in the upper half of the phases (R116). -/
theorem squareSample_eq (a : Word16) :
    squareSample a = if 0x8000 ≤ a.toNat then 175#8 else 83#8 := by
  have hbit : a.getLsbD 15 = decide (0x8000 ≤ a.toNat) := BitVec.msb_eq_decide a
  simp only [squareSample, hbit, decide_eq_true_eq, BitVec.ofNat_eq_ofNat]

/-! ### The operations -/

/-- Settles O9: an invoked SQUARE is its step, whose level bit 15 of the phase selects. -/
theorem squareReturnsTwoLevels : Obligations.SquareReturnsTwoLevels := by
  intro s i k h ha hinc hg
  rw [← Track.advance_eq, ← squareSample_eq]
  exact State.onTrack_generates squareStep h ha hinc hg

/-- Settles O6: an invoked SAW is its step, whose sample is the high byte of the phase. -/
theorem sawReturnsHighByte : Obligations.SawReturnsHighByte := by
  intro s i k h ha hinc hg
  rw [← Track.advance_eq, ← sawSample_eq]
  exact State.onTrack_generates sawStep h ha hinc hg

/-- Settles O7: an invoked TRI is its step, whose sample is the formula's value. -/
theorem triReturnsRamp : Obligations.TriReturnsRamp := by
  intro s i k h ha hinc hg
  rw [← Track.advance_eq, ← triSample_eq]
  exact State.onTrack_generates triStep h ha hinc hg

end Sys2Proof.Machine
end

section
/-! PROOFS. The track sequencer: REST and END_LOOP as one whole step of a track, and the cursor's
bound along every step (spec/41_sequencer.md R145, R147, R149, R154). -/

namespace Sys2Proof.Machine

open Sys2Proof

/-! ### The track at a boundary, and the fault it can raise -/

theorem Track.atEvent_iff {k : Track} :
    k.atEvent = true ↔ k.active = true ∧ k.rem = 0 ∧ k.pos ≠ k.len := by
  simp [Track.atEvent, Track.atBoundary, and_assoc]

theorem Track.atLoopEnd_iff {k : Track} :
    k.atLoopEnd = true ↔ k.active = true ∧ k.rem = 0 ∧ k.pos = k.len ∧ k.loop = true := by
  simp [Track.atLoopEnd, Track.atBoundary, and_assoc]

/-- The first fault is recorded with its track and cursor (R35, R221). -/
theorem State.takeFault_of_no_fault {s : State} (h : s.fault.code = .none) (c : FaultCode)
    (i : TrackId) (pos : Word16) :
    s.takeFault c i pos =
      { s with fault := { code := c, track := i, pos := pos }, busy := false } := by
  rw [State.takeFault, if_pos h]
  rfl

/-! ### PRODUCE and the events, when they answer -/

theorem produce_of_silent {cfg : GlobalCfg} {wrapped : Bool} {k : Track}
    (h : (wrapped = true ∧ cfg.wrapMode = .silent) ∨ k.freqInc = 0) (rom : Rom) :
    produce rom cfg wrapped k = .ok (k.countDown, silence) := by
  unfold produce
  split_ifs with hw hf
  · rfl
  · rfl
  · obtain hw' | hf' := h
    · simp [hw'] at hw
    · exact absurd hf' hf

/-- The wrap mode does not silence the step and the increment is not 0: the generator's sample is
the step's (R149). -/
theorem produce_of_dispatch {rom : Rom} {cfg : GlobalCfg} {wrapped : Bool} {k k' : Track}
    {v : Sample} (hd : genDispatch rom k = .ok (k', v))
    (hw : wrapped = false ∨ cfg.wrapMode = .stale) (hf : k.freqInc ≠ 0) :
    produce rom cfg wrapped k = .ok (k'.countDown, v) := by
  have hw' : ¬ (wrapped && decide (cfg.wrapMode = .silent)) = true := by
    obtain e | e := hw <;> simp [e]
  rw [produce, if_neg hw', if_neg hf, hd]

/-- GEN_DISPATCH leaves REM to the decrement that follows it (R149). -/
theorem genDispatch_rem {rom : Rom} {k k' : Track} {v : Sample}
    (h : genDispatch rom k = .ok (k', v)) : k'.rem = k.rem := by
  obtain ⟨-, hk, -⟩ := genDispatch_ok h
  rw [hk]

theorem Track.countDown_of_rem_one {k : Track} (h : k.rem = 1) :
    k.countDown = { k with rem := 0 } := by
  rw [Track.countDown, h]
  rfl

theorem restStep_of_ne_zero {t : BitVec 7} (ht : t ≠ 0) (rom : Rom) (cfg : GlobalCfg) (k : Track) :
    restStep rom cfg t k =
      .ok ({ k with freqInc := 0, phase := 0, pos := k.pos + 1,
                    rem := duration cfg t.toNat - 1 }, silence) := by
  obtain ⟨h, -⟩ | ⟨-, e⟩ := restStep_cases rom cfg t k
  · exact absurd h ht
  · exact e

/-- The wrap step without a generator: REM is set to 1 and counted down at once (R147, R149). -/
theorem endLoopStep_of_silent {cfg : GlobalCfg} {k : Track}
    (h : cfg.wrapMode = .silent ∨ k.freqInc = 0) (rom : Rom) :
    endLoopStep rom cfg k = .ok ({ k with phase := 0, pos := 0, rem := 0 }, silence) := by
  rw [endLoopStep, produce_of_silent (k := { k with phase := 0, pos := 0, rem := 1 })
    (h.imp_left fun hw => ⟨rfl, hw⟩), Track.countDown_of_rem_one rfl]

/-- The wrap step with the generator, run from phase 0 (R147, R149). -/
theorem endLoopStep_of_dispatch {rom : Rom} {cfg : GlobalCfg} {k k' : Track} {v : Sample}
    (hd : genDispatch rom { k with phase := 0, pos := 0, rem := 1 } = .ok (k', v))
    (hw : cfg.wrapMode = .stale) (hf : k.freqInc ≠ 0) :
    endLoopStep rom cfg k = .ok ({ k' with rem := 0 }, v) := by
  rw [endLoopStep, produce_of_dispatch hd (.inr hw) hf,
    Track.countDown_of_rem_one (genDispatch_rem hd)]

/-- An event step that answers is the step of a NOTE or of a REST (R143). -/
theorem eventStep_ok {rom : Rom} {cfg : GlobalCfg} {k : Track} {r : Track × Sample}
    (h : eventStep rom cfg k = .ok r) :
    (∃ p t, noteStep rom cfg p t k = .ok r) ∨ ∃ t, restStep rom cfg t k = .ok r := by
  unfold eventStep at h
  split at h
  · cases h
  · split at h
    · exact .inl ⟨_, _, h⟩
    · exact .inr ⟨_, h⟩
    · cases h
    · cases h

/-! ### REST and END_LOOP -/

/-- Settles O21: a REST at an event is its step, which answers silence unless its count is 0 and
then raises ZERO_DURATION. -/
theorem restResolvesSilently : Obligations.RestResolvesSilently := by
  intro s i k t hc hev
  have hexec : exec (.rest i t) s = s.afterTrack i k (restStep s.rom s.cfg t k) :=
    State.onTrack_taken hc hev
  rw [hexec]
  constructor
  · intro ht
    rw [restStep_of_ne_zero ht]
    rfl
  · rintro rfl hf
    rw [restStep_zeroDuration, ← State.takeFault_of_no_fault hf]
    rfl

/-- Settles O22: END_LOOP at the stream's end is its step, which in the stale mode has the sample
GEN_DISPATCH answers for the restarted track. -/
theorem endLoopRestartsTheStream : Obligations.EndLoopRestartsTheStream := by
  intro s i k hc ha hr hp hl
  have hexec : exec (.endLoop i) s = s.afterTrack i k (endLoopStep s.rom s.cfg k) :=
    State.onTrack_taken hc (Track.atLoopEnd_iff.mpr ⟨ha, hr, hp, hl⟩)
  rw [hexec]
  constructor
  · intro hsilent
    rw [endLoopStep_of_silent hsilent]
    rfl
  · intro hw hf hg
    obtain ⟨k', v, hd⟩ :=
      genDispatch_of_legal (rom := s.rom) (k := { k with phase := 0, pos := 0, rem := 1 }) hg
    refine ⟨k', v, hd, ?_⟩
    rw [endLoopStep_of_dispatch hd hw hf]
    rfl

/-! ### The cursor's bound -/

/-- The track `k'` has the stream, the generator and the LOOP of `k`, and its cursor is within that
stream (R26, R28 to R30). -/
def Track.InWindowOf (k k' : Track) : Prop :=
  k'.pos.toNat ≤ k'.len.toNat ∧ k'.len = k.len ∧ k'.base = k.base ∧ k'.gen = k.gen ∧
    k'.loop = k.loop

theorem Track.inWindowOf_self {k : Track} (hpos : k.pos.toNat ≤ k.len.toNat) : k.InWindowOf k :=
  ⟨hpos, rfl, rfl, rfl, rfl⟩

/-- PRODUCE writes PHASE, NOISE and REM only (R149). -/
theorem produce_inWindowOf {rom : Rom} {cfg : GlobalCfg} {wrapped : Bool} {k k₁ k' : Track}
    {v : Sample} (h : produce rom cfg wrapped k₁ = .ok (k', v)) (hk₁ : k.InWindowOf k₁) :
    k.InWindowOf k' := by
  obtain ⟨hk', -⟩ := produce_ok h
  rw [hk']
  exact hk₁

/-- A NOTE that answers had its tick byte inside the stream, so its two bytes fit (R144). -/
theorem noteStep_inWindowOf {rom : Rom} {cfg : GlobalCfg} {p : Pitch} {t : Byte} {k k' : Track}
    {v : Sample} (h : noteStep rom cfg p t k = .ok (k', v)) : k.InWindowOf k' := by
  obtain ⟨-, e⟩ | ⟨-, -, e⟩ | ⟨-, -, -, e⟩ | ⟨_, hlen, -, e⟩ := noteStep_cases rom cfg p t k <;>
    rw [e] at h
  · cases h
  · cases h
  · cases h
  · have hpos : (k.pos + 2).toNat ≤ k.len.toNat := by bv_omega
    exact produce_inWindowOf h ⟨hpos, rfl, rfl, rfl, rfl⟩

/-- A REST begins inside the stream, so its one byte fits (R145). -/
theorem restStep_inWindowOf {rom : Rom} {cfg : GlobalCfg} {t : BitVec 7} {k k' : Track}
    {v : Sample} (hlt : k.pos.toNat < k.len.toNat) (h : restStep rom cfg t k = .ok (k', v)) :
    k.InWindowOf k' := by
  obtain ⟨-, e⟩ | ⟨-, e⟩ := restStep_cases rom cfg t k <;> rw [e] at h <;> cases h
  have hpos : (k.pos + 1).toNat ≤ k.len.toNat := by bv_omega
  exact ⟨hpos, rfl, rfl, rfl, rfl⟩

theorem eventStep_inWindowOf {rom : Rom} {cfg : GlobalCfg} {k k' : Track} {v : Sample}
    (hlt : k.pos.toNat < k.len.toNat) (h : eventStep rom cfg k = .ok (k', v)) :
    k.InWindowOf k' := by
  obtain ⟨p, t, hn⟩ | ⟨t, hr⟩ := eventStep_ok h
  · exact noteStep_inWindowOf hn
  · exact restStep_inWindowOf hlt hr

theorem endLoopStep_inWindowOf {rom : Rom} {cfg : GlobalCfg} {k k' : Track} {v : Sample}
    (h : endLoopStep rom cfg k = .ok (k', v)) : k.InWindowOf k' :=
  produce_inWindowOf h ⟨Nat.zero_le _, rfl, rfl, rfl, rfl⟩

/-- Settles O30, by the cases of SEQ_STEP: only an event moves the cursor forward, and an event is
resolved only where the cursor is not at the stream's end. -/
theorem cursorStaysInTheWindow : Obligations.CursorStaysInTheWindow := by
  intro rom cfg k k' v hpos h
  change k.InWindowOf k'
  obtain ⟨-, e⟩ | ⟨-, -, e⟩ | ⟨-, e⟩ | ⟨-, e⟩ | ⟨hev, e⟩ := seqStep_cases rom cfg k <;>
    rw [e] at h
  · cases h
    exact Track.inWindowOf_self hpos
  · exact produce_inWindowOf h (Track.inWindowOf_self hpos)
  · exact endLoopStep_inWindowOf h
  · cases h
    exact Track.inWindowOf_self hpos
  · obtain ⟨-, -, hne⟩ := Track.atEvent_iff.mp hev
    exact eventStep_inWindowOf (lt_of_le_of_ne hpos (mt BitVec.eq_of_toNat_eq hne)) h

end Sys2Proof.Machine
end

section
/-! PROOFS. The mixer: the range of a track's term and of the sum
(spec/42_mixer.md R172, R173, R175). -/

namespace Sys2Proof.Machine

open Sys2Proof

theorem offset_bounds (v : Sample) : -128 ≤ offset v ∧ offset v ≤ 127 := by
  have hv : v.toNat < 256 := v.isLt
  unfold offset
  omega

/-- The arithmetic shift is the floor of the quotient (R173). -/
theorem mixTerm_eq_ediv (e : Nat) (v : Sample) : mixTerm e v = offset v / 2 ^ e := by
  simp [mixTerm, Int.shiftRight_eq_div_pow]

/-- The positive side of a term (R175), under every exponent. -/
theorem mixTerm_le (e : Nat) (v : Sample) : mixTerm e v ≤ (127 >>> e : Nat) := by
  obtain ⟨-, hhi⟩ := offset_bounds v
  calc
    mixTerm e v = offset v / 2 ^ e := mixTerm_eq_ediv e v
    _ ≤ 127 / 2 ^ e := Int.ediv_le_ediv (by positivity) hhi
    _ = (127 >>> e : Nat) := by simp [Nat.shiftRight_eq_div_pow]

/-- The negative side of a term (R175). It needs the divisor to divide 128: under an exponent above
7 the floor of a negative offset's quotient is -1, while `128 >>> e` is 0. -/
theorem neg_le_mixTerm {e : Nat} (he : e ≤ 7) (v : Sample) :
    -((128 >>> e : Nat) : Int) ≤ mixTerm e v := by
  obtain ⟨hlo, -⟩ := offset_bounds v
  have hdvd : (2 : Int) ^ e ∣ 128 := pow_dvd_pow 2 he
  calc
    -((128 >>> e : Nat) : Int) = -(128 / 2 ^ e) := by simp [Nat.shiftRight_eq_div_pow]
    _ = -128 / 2 ^ e := (Int.neg_ediv_of_dvd hdvd).symm
    _ ≤ offset v / 2 ^ e := Int.ediv_le_ediv (by positivity) hlo
    _ = mixTerm e v := (mixTerm_eq_ediv e v).symm

theorem mixTerm_sum_le (e : Nat) (vs : List Sample) :
    (vs.map (mixTerm e)).sum ≤ (vs.length * (127 >>> e) : Nat) := by
  simpa using List.sum_le_card_nsmul (vs.map (mixTerm e)) (127 >>> e : Nat)
    (List.forall_mem_map.mpr fun v _ => mixTerm_le e v)

theorem neg_le_mixTerm_sum {e : Nat} (he : e ≤ 7) (vs : List Sample) :
    -((vs.length * (128 >>> e) : Nat) : Int) ≤ (vs.map (mixTerm e)).sum := by
  simpa using List.card_nsmul_le_sum (vs.map (mixTerm e)) (-((128 >>> e : Nat) : Int))
    (List.forall_mem_map.mpr fun v _ => neg_le_mixTerm he v)

/-- Settles O35: the two products that the configuration checks bound are the sum's extremes, one
for each sign (R172). -/
theorem mixNeverOverflows : Obligations.MixNeverOverflows := by
  rintro g vs ⟨-, -, he, hpos, hneg, -, -⟩ hlen
  have hhi := mixTerm_sum_le g.attenExp vs
  have hlo := neg_le_mixTerm_sum he vs
  rw [hlen] at hhi hlo
  omega

end Sys2Proof.Machine
end

section
/-! PROOFS. The pipeline operations (spec/43_pipeline.md R191). -/

namespace Sys2Proof.Machine

open Sys2Proof

theorem State.live_iff {s : State} :
    s.live = true ↔ s.resetDone = true ∧ s.cfgStatus = .accepted := by
  simp [State.live]

/-- TICK asks for a live block and for nothing else (R191). -/
theorem exec_tick_of_live {s : State} (h : s.live = true) :
    exec .tick s = .next ((s.dacWrite s.held).setReady true) := by
  change execTick s = _
  rw [execTick, if_pos h]

/-- Settles O38: an accepted RESET makes the block live, and in a live block TICK is the DAC write of
HELD followed by setting READY. -/
theorem tickWritesHeldAndSetsReady : Obligations.TickWritesHeldAndSetsReady := by
  intro s hreset haccepted
  exact exec_tick_of_live (State.live_iff.mpr ⟨hreset, haccepted⟩)

end Sys2Proof.Machine
end

section
/-! PROOFS. The LFSR that is not locked stays so (spec/40_generators.md R119). -/

namespace Sys2Proof.Machine

open Sys2Proof

/-- The XOR of the taps enters bit 0 (R119). -/
theorem lfsrShift_getLsbD_zero (x : Word16) (a b : Nat) :
    (lfsrShift x a b).getLsbD 0 = (x.getLsbD a ^^ x.getLsbD b) := by
  simp [lfsrShift]

/-- Every other bit moves up by one (R119). -/
theorem lfsrShift_getLsbD_succ (x : Word16) (a b : Nat) {j : Nat} (hj : j < 15) :
    (lfsrShift x a b).getLsbD (j + 1) = x.getLsbD j := by
  simpa [lfsrShift] using fun _ => Nat.succ_lt_succ hj

/-- An LFSR is alive when one of its bits 0 to 14 is set (R119). -/
theorem lfsrAlive_iff {x : Word16} : lfsrAlive x ↔ ∃ j, j < 15 ∧ x.getLsbD j = true := by
  rw [lfsrAlive, ne_eq, BitVec.eq_of_getLsbD_eq_iff]
  simp

/-- Bit 14 leaves the low 15 bits, and then either it enters again at bit 0 or tap `b` was set and
has moved up. -/
theorem lfsrAlive_lfsrShift {x : Word16} {b : Nat} (hb : b < 14) (h : lfsrAlive x) :
    lfsrAlive (lfsrShift x 14 b) := by
  obtain ⟨j, hj, hx⟩ := lfsrAlive_iff.mp h
  rw [lfsrAlive_iff]
  by_cases hj14 : j < 14
  · exact ⟨j + 1, by omega, by rw [lfsrShift_getLsbD_succ x 14 b hj, hx]⟩
  · obtain rfl : j = 14 := by omega
    cases hxb : x.getLsbD b with
    | true => exact ⟨b + 1, by omega, by rw [lfsrShift_getLsbD_succ x 14 b (by omega), hxb]⟩
    | false => exact ⟨0, by omega, by rw [lfsrShift_getLsbD_zero, hx, hxb]; rfl⟩

theorem lfsrAlive_lfsrIterate {b : Nat} (hb : b < 14) (n : Nat) {x : Word16} (h : lfsrAlive x) :
    lfsrAlive (lfsrIterate 14 b n x) := by
  induction n generalizing x with
  | zero => exact h
  | succ n ih => exact ih (lfsrAlive_lfsrShift hb h)

theorem lfsrAlive_lfsrClock {b : Nat} (hb : b < 14) {x : Word16} (h : lfsrAlive x) :
    lfsrAlive (lfsrClock x 14 b) :=
  lfsrAlive_lfsrIterate hb 8 h

end Sys2Proof.Machine
end

section
/-! PROOFS. Well-formed note streams (spec/70_reset_and_hazards.md R254): what the bytes at the
cursor of one are, and that a track that plays one never faults and stays between two of its
events. -/

namespace Sys2Proof.Machine

open Sys2Proof

/-! ### The bytes of a well-formed stream -/

/-- A stream that begins with a REST is well formed when the REST is legal and the rest is. -/
theorem streamWellFormed_rest {b0 : Byte} {bs : List Byte} (hb : isRestByte b0 = true) :
    streamWellFormed (b0 :: bs) = true ↔ lowBits b0 ≠ 0 ∧ streamWellFormed bs = true := by
  cases bs <;> simp [streamWellFormed, StreamEvent.wellFormed, hb]

/-- A stream that begins with a NOTE is well formed when the NOTE is legal and the rest is. -/
theorem streamWellFormed_note {b0 b1 : Byte} {bs : List Byte} (hb : isRestByte b0 = false) :
    streamWellFormed (b0 :: b1 :: bs) = true ↔
      (lowBits b0).toNat ≤ 71 ∧ b1 ≠ 0 ∧ streamWellFormed bs = true := by
  simp [streamWellFormed, StreamEvent.wellFormed, hb, and_assoc]

/-- A NOTE without its tick byte does not end a well-formed stream. -/
theorem streamWellFormed_noteWithoutTick {b0 : Byte} (hb : isRestByte b0 = false) :
    streamWellFormed [b0] = false := by
  simp [streamWellFormed, hb]

theorem streamBytes_length (rom : Rom) (k : Track) : (streamBytes rom k).length = k.len.toNat := by
  simp [streamBytes]

/-- The first of the bytes from an offset inside the stream is the memory's byte there (R62). -/
theorem streamBytes_drop (rom : Rom) {k : Track} {j : Nat} (hj : j < k.len.toNat) :
    (streamBytes rom k).drop j =
      Memory.lookup rom.stream (k.base.toNat + j) :: (streamBytes rom k).drop (j + 1) := by
  rw [List.drop_eq_getElem_cons (by rwa [streamBytes_length])]
  simp [streamBytes]

/-! ### The step of a track in order -/

/-- The step answers, and leaves a track that is in order between two events of a well-formed
stream. -/
def AnswersInOrder (rom : Rom) (o : Except Halt (Track × Sample)) : Prop :=
  ∃ k' v, o = .ok (k', v) ∧ k'.ok ∧ k'.playsWellFormed rom

section

variable {rom : Rom} {cfg : GlobalCfg} {k : Track}

/-- PRODUCE leaves the cursor and the stream, and clocks the LFSR at most once (R118, R149). -/
theorem produce_answersInOrder (wrapped : Bool) (hk : k.ok) (hw : k.playsWellFormed rom) :
    AnswersInOrder rom (produce rom cfg wrapped k) := by
  obtain ⟨hpos, hwin, hgen, hnote, halive⟩ := hk
  obtain ⟨k', v, h⟩ := produce_of_legal (rom := rom) (cfg := cfg) (wrapped := wrapped) hgen
  obtain ⟨hk', hnoise⟩ := produce_ok h
  have halive' : lfsrAlive k'.noise := by
    obtain e | e | e := hnoise <;> rw [e]
    · exact halive
    · exact lfsrAlive_lfsrClock (by decide) halive
    · exact lfsrAlive_lfsrClock (by decide) halive
  refine ⟨k', v, h, ?_⟩
  rw [hk']
  exact ⟨⟨hpos, hwin, hgen, hnote, halive'⟩, hw⟩

/-- END_LOOP returns to offset 0, from where the whole stream is well formed (R147). -/
theorem endLoopStep_answersInOrder (hk : k.ok) (hw : k.playsWellFormed rom) :
    AnswersInOrder rom (endLoopStep rom cfg k) := by
  obtain ⟨-, hwin, hgen, hnote, halive⟩ := hk
  obtain ⟨hall, -⟩ := hw
  exact produce_answersInOrder true ⟨Nat.zero_le _, hwin, hgen, hnote, halive⟩ ⟨hall, hall⟩

/-- A legal REST at the cursor answers, and the cursor moves past its one byte (R145). -/
theorem restStep_answersInOrder {t : BitVec 7} (hk : k.ok) (hlt : k.pos.toNat < k.len.toNat)
    (ht : t ≠ 0) (hall : streamWellFormed (streamBytes rom k) = true)
    (hnext : streamWellFormed ((streamBytes rom k).drop (k.pos.toNat + 1)) = true) :
    AnswersInOrder rom (restStep rom cfg t k) := by
  obtain ⟨-, hwin, hgen, hnote, halive⟩ := hk
  have hpos : (k.pos + 1).toNat = k.pos.toNat + 1 := by bv_omega
  refine ⟨_, _, restStep_of_ne_zero ht rom cfg k, ⟨?_, hwin, hgen, hnote, halive⟩, hall, ?_⟩
  · exact hpos.trans_le hlt
  · rwa [← hpos] at hnext

/-- A legal NOTE at the cursor answers, and the cursor moves past its two bytes (R144). -/
theorem noteStep_answersInOrder {p : Pitch} {t : Byte} (hk : k.ok)
    (hlt : k.pos.toNat + 1 < k.len.toNat) (hp : p.toNat ≤ 71) (ht : t ≠ 0)
    (hall : streamWellFormed (streamBytes rom k) = true)
    (hnext : streamWellFormed ((streamBytes rom k).drop (k.pos.toNat + 2)) = true) :
    AnswersInOrder rom (noteStep rom cfg p t k) := by
  obtain ⟨-, hwin, hgen, -, halive⟩ := hk
  have hpos : (k.pos + 2).toNat = k.pos.toNat + 2 := by bv_omega
  obtain ⟨h, -⟩ | ⟨-, h, -⟩ | ⟨-, -, h, -⟩ | ⟨_, -, -, e⟩ := noteStep_cases rom cfg p t k
  · omega
  · omega
  · exact absurd h ht
  · rw [e]
    rw [← hpos] at hnext
    exact produce_answersInOrder false ⟨hpos.trans_le hlt, hwin, hgen, hp, halive⟩ ⟨hall, hnext⟩

/-- The bytes at the cursor are those of a legal event, because the cursor stands where decoding the
well-formed stream comes by. -/
theorem eventStep_answersInOrder (hk : k.ok) (hw : k.playsWellFormed rom)
    (hlt : k.pos.toNat < k.len.toNat) : AnswersInOrder rom (eventStep rom cfg k) := by
  obtain ⟨hall, hhere⟩ := hw
  have ⟨_, hwin, _⟩ := hk
  rw [streamBytes_drop rom hlt] at hhere
  obtain ⟨b0, rfl, h⟩ := eventStep_cases (rom := rom) (cfg := cfg) hlt hwin
  obtain ⟨hb, e⟩ | ⟨hb, hlt', e⟩ | ⟨hb, hend, -⟩ := h
  · rw [e]
    obtain ⟨ht, hnext⟩ := (streamWellFormed_rest hb).mp hhere
    exact restStep_answersInOrder hk hlt ht hall hnext
  · rw [e]
    rw [streamBytes_drop rom hlt'] at hhere
    obtain ⟨hp, ht, hnext⟩ := (streamWellFormed_note hb).mp hhere
    exact noteStep_answersInOrder hk hlt' hp ht hall hnext
  · have hnil : (streamBytes rom k).drop (k.pos.toNat + 1) = [] :=
      List.drop_eq_nil_of_le ((streamBytes_length rom k).trans_le hend)
    rw [hnil, streamWellFormed_noteWithoutTick hb] at hhere
    cases hhere

end

/-- Settles O32, by the cases of SEQ_STEP: only an event and END_LOOP move the cursor, to offsets
that decoding the stream from offset 0 comes by. -/
theorem wellFormedStreamNeverFaults : Obligations.WellFormedStreamNeverFaults := by
  intro rom cfg k hk hw
  change AnswersInOrder rom (seqStep rom cfg k)
  obtain ⟨-, e⟩ | ⟨-, -, e⟩ | ⟨-, e⟩ | ⟨-, e⟩ | ⟨hev, e⟩ := seqStep_cases rom cfg k <;> rw [e]
  · exact ⟨k, _, rfl, hk, hw⟩
  · exact produce_answersInOrder false hk hw
  · exact endLoopStep_answersInOrder hk hw
  · exact ⟨_, _, rfl, hk, hw⟩
  · obtain ⟨-, -, hne⟩ := Track.atEvent_iff.mp hev
    have ⟨hpos, _⟩ := hk
    exact eventStep_answersInOrder hk hw (lt_of_le_of_ne hpos (mt BitVec.eq_of_toNat_eq hne))

end Sys2Proof.Machine
end

section
/-! PROOFS. Encoding and decoding are inverse to each other (spec/30_encoding.md R81 to R87). -/

namespace Sys2Proof.Machine

open Sys2Proof

/-! ### From operations to codes and back -/

theorem decodeEvent_encodeEvent (e : StreamEvent) : decodeEvent (encodeEvent e) = .ok (e, []) := by
  cases e with
  | note p t => simp [encodeEvent, decodeEvent]
  | rest t => simp [encodeEvent, decodeEvent]

theorem decode_stream_encodeEvent (i : TrackId) (e : StreamEvent) :
    decode (.stream i (encodeEvent e)) = .ok (e.toInstr i) := by
  rw [decode, decodeEvent_encodeEvent]

/-- Settles O1: an event's bytes decode to the event, and every other code to the one operation of
its row. -/
theorem decodeOfEncodeIsIdentity : Obligations.DecodeOfEncodeIsIdentity := by
  intro x c h
  cases x with
  | note i p t => cases h; exact decode_stream_encodeEvent i (.note p t)
  | rest i t => cases h; exact decode_stream_encodeEvent i (.rest t)
  | _ => cases h <;> rfl

/-! ### From codes to operations and back -/

theorem note_byte {b : Byte} (h : isRestByte b = false) : 0#1 ++ lowBits b = b := by
  revert b; decide

theorem rest_byte {b : Byte} (h : isRestByte b = true) : 1#1 ++ lowBits b = b := by
  revert b; decide

/-- The bytes an event was decoded from are its encoding and what was left over. -/
theorem encodeEvent_of_decodeEvent {bs rest : List Byte} {e : StreamEvent}
    (h : decodeEvent bs = .ok (e, rest)) : encodeEvent e ++ rest = bs := by
  cases bs with
  | nil => cases h
  | cons b0 bs =>
    cases hb : isRestByte b0 with
    | true =>
      simp only [decodeEvent, hb, if_true] at h
      cases h
      simp [encodeEvent, rest_byte hb]
    | false =>
      cases bs with
      | nil => simp [decodeEvent, hb] at h
      | cons b1 bs =>
        simp only [decodeEvent, hb] at h
        cases h
        simp [encodeEvent, note_byte hb]

/-- Bytes that decode to an operation are those of one event and no more. -/
theorem decode_stream_ok {i : TrackId} {bs : List Byte} {x : Instr}
    (h : decode (.stream i bs) = .ok x) : ∃ e, decodeEvent bs = .ok (e, []) ∧ x = e.toInstr i := by
  unfold decode at h
  dsimp only at h
  split at h
  · next e he => cases h; exact ⟨e, he, rfl⟩
  · cases h
  · cases h

theorem encode_toInstr (i : TrackId) (e : StreamEvent) :
    encode (e.toInstr i) = some (.stream i (encodeEvent e)) := by
  cases e <;> rfl

theorem generatorCode_cases (g : BitVec 3) :
    g = 0 ∨ g = 1 ∨ g = 2 ∨ g = 3 ∨ g = 4 ∨ g = 5 ∨ g = 6 ∨ g = 7 := by
  revert g; decide

theorem encode_decodeGenerator (i : TrackId) (g : BitVec 3) :
    encode (decodeGenerator i g) = some (.generator i g) := by
  rcases generatorCode_cases g with rfl | rfl | rfl | rfl | rfl | rfl | rfl | rfl <;> rfl

/-- A port's code decodes only while its strobe is set (R201). -/
theorem strobe_ok {b : BitVec 1} {x y : Instr}
    (h : (if b = 1#1 then .ok y else .error .noStrobe : Except DecodeError Instr) = .ok x) :
    b = 1#1 ∧ x = y := by
  split_ifs at h with hb
  cases h
  exact ⟨hb, rfl⟩

/-- Settles O2: the bytes of a stream event, the eight generator codes and a set strobe are each
what the operation they decode to is encoded as. -/
theorem encodeOfDecodeIsIdentity : Obligations.EncodeOfDecodeIsIdentity := by
  intro c x h
  cases c with
  | stream i bs =>
    obtain ⟨e, he, rfl⟩ := decode_stream_ok h
    rw [encode_toInstr, ← encodeEvent_of_decodeEvent he, List.append_nil]
  | generator i g => cases h; exact encode_decodeGenerator i g
  | sampleTick b => obtain ⟨rfl, rfl⟩ := strobe_ok h; rfl
  | trackInit b i c => obtain ⟨rfl, rfl⟩ := strobe_ok h; rfl
  | rst b => obtain ⟨rfl, rfl⟩ := strobe_ok h; rfl

/-- Settles O3: the operands are read off the bytes' bits. -/
theorem writtenOutWordsDecode : Obligations.WrittenOutWordsDecode := by
  unfold Obligations.WrittenOutWordsDecode
  decide

end Sys2Proof.Machine
end

section
/-! PROOFS. One step of a track: which event its bytes make it resolve, why a step has no result,
and what a step that answers keeps (spec/41_sequencer.md R141 to R149, R222). -/

namespace Sys2Proof.Machine

open Sys2Proof

/-! ### The event fetch -/

theorem memRead_eq_none {rom : Rom} {a : Nat} : memRead rom a = none ↔ 65536 ≤ a := by
  simp [memRead]

/-- A fetch that fails was past the address space, at the event's first byte or at a tick byte
inside the stream (R60, R61). -/
theorem fetchEvent_error {rom : Rom} {k : Track} {a : Nat} (h : fetchEvent rom k = .error a) :
    65536 ≤ a ∧ (a = k.base.toNat + k.pos.toNat ∨
      a = k.base.toNat + k.pos.toNat + 1 ∧ k.pos.toNat + 1 < k.len.toNat) := by
  simp only [fetchEvent] at h
  split at h
  · next h0 =>
    cases h
    exact ⟨memRead_eq_none.mp h0, .inl rfl⟩
  · split_ifs at h with hb hlen
    split at h
    · next h1 =>
      cases h
      exact ⟨memRead_eq_none.mp h1, .inr ⟨rfl, hlen⟩⟩
    · cases h

/-- A fetch that answers holds a whole event, or a NOTE's first byte alone (R143, R222). -/
theorem fetchEvent_ok {rom : Rom} {k : Track} {bs : List Byte} (h : fetchEvent rom k = .ok bs) :
    (∃ e, bs = encodeEvent e) ∨ ∃ p : Pitch, bs = [0#1 ++ p] := by
  simp only [fetchEvent] at h
  split at h
  · cases h
  · next b0 _ =>
    cases hb : isRestByte b0 with
    | true =>
      simp only [hb, if_true] at h
      cases h
      exact .inl ⟨.rest (lowBits b0), by rw [encodeEvent, rest_byte hb]⟩
    | false =>
      simp only [hb, Bool.false_eq_true, if_false] at h
      split_ifs at h with hlen
      · split at h
        · cases h
        · next b1 _ =>
          cases h
          exact .inl ⟨.note (lowBits b0) b1, by rw [encodeEvent, note_byte hb]⟩
      · cases h
        exact .inr ⟨lowBits b0, by rw [note_byte hb]⟩

/-- The step of a whole event (R144, R145). -/
def performEvent (rom : Rom) (cfg : GlobalCfg) (k : Track) :
    StreamEvent → Except Halt (Track × Sample)
  | .note p t => noteStep rom cfg p t k
  | .rest t => restStep rom cfg t k

/-- A fetched event is performed (R143). -/
theorem eventStep_of_event {rom : Rom} {cfg : GlobalCfg} {k : Track} {e : StreamEvent}
    (h : fetchEvent rom k = .ok (encodeEvent e)) :
    eventStep rom cfg k = performEvent rom cfg k e := by
  simp only [eventStep, h, decodeEvent_encodeEvent]
  cases e <;> rfl

/-- A NOTE's first byte alone does not decode (R85). -/
theorem decodeEvent_missingTick (p : Pitch) :
    decodeEvent [0#1 ++ p] = .error (.missingTick p) := by
  simp [decodeEvent]

theorem eventStep_of_missingTick {rom : Rom} {cfg : GlobalCfg} {k : Track} {p : Pitch}
    (h : fetchEvent rom k = .ok [0#1 ++ p]) :
    eventStep rom cfg k = .error (noteWithoutTick p) := by
  simp only [eventStep, h, decodeEvent_missingTick]

theorem eventStep_of_error {rom : Rom} {cfg : GlobalCfg} {k : Track} {a : Nat}
    (h : fetchEvent rom k = .error a) :
    eventStep rom cfg k = .error (.stuck (.streamAddress a)) := by
  simp only [eventStep, h]

/-! ### Why a step has no result -/

/-- The tracks on which the machine stops, and the reason it gives: a reserved generator code, or an
address past the space, for which the window or the cursor must be out of bounds. -/
def Track.StopsWith (k : Track) (f : Fault) : Prop :=
  (4 < k.gen.toNat ∧ f = .noGenerator k.gen) ∨
    ((65536 < k.base.toNat + k.len.toNat ∨ k.len.toNat < k.pos.toNat) ∧
      ∃ a, 65536 ≤ a ∧ (a = k.base.toNat + k.pos.toNat ∨ a = k.base.toNat + k.pos.toNat + 1) ∧
        f = .streamAddress a)

/-- Why the step of `k` has no result: one of the three faults of the spec, or a stop. -/
def Track.HaltsWith (k : Track) : Halt → Prop
  | .raised c => c ≠ .none
  | .stuck f => k.StopsWith f

section

variable {rom : Rom} {cfg : GlobalCfg} {k : Track} {d : Halt}

/-- PRODUCE fails on a reserved generator code only (R141). -/
theorem produce_error {wrapped : Bool} (h : produce rom cfg wrapped k = .error d) :
    4 < k.gen.toNat ∧ d = .stuck (.noGenerator k.gen) := by
  obtain ⟨-, e⟩ | ⟨-, k', v, -, e⟩ | ⟨-, d', hd, e⟩ := produce_cases rom cfg wrapped k <;>
    rw [e] at h <;> cases h
  obtain ⟨-, e⟩ | ⟨-, e⟩ | ⟨-, e⟩ | ⟨-, e⟩ | ⟨-, e⟩ | ⟨hg, e⟩ := genDispatch_cases rom k <;>
    rw [e] at hd <;> cases hd
  exact ⟨hg, rfl⟩

theorem produce_haltsWith {wrapped : Bool} {k₁ : Track}
    (h : produce rom cfg wrapped k₁ = .error d) (hg : k₁.gen = k.gen) : k.HaltsWith d := by
  obtain ⟨h4, rfl⟩ := produce_error h
  rw [hg] at h4 ⊢
  exact .inl ⟨h4, rfl⟩

theorem noteStep_haltsWith {p : Pitch} {t : Byte} (h : noteStep rom cfg p t k = .error d) :
    k.HaltsWith d := by
  obtain ⟨-, e⟩ | ⟨-, -, e⟩ | ⟨-, -, -, e⟩ | ⟨_, -, -, e⟩ := noteStep_cases rom cfg p t k <;>
    rw [e] at h
  · cases h; exact FaultCode.noConfusion
  · cases h; exact FaultCode.noConfusion
  · cases h; exact FaultCode.noConfusion
  · exact produce_haltsWith h rfl

theorem restStep_haltsWith {t : BitVec 7} (h : restStep rom cfg t k = .error d) :
    k.HaltsWith d := by
  obtain ⟨-, e⟩ | ⟨-, e⟩ := restStep_cases rom cfg t k <;> rw [e] at h <;> cases h
  exact FaultCode.noConfusion

theorem noteWithoutTick_haltsWith (p : Pitch) : k.HaltsWith (noteWithoutTick p) := by
  unfold noteWithoutTick
  split_ifs <;> exact FaultCode.noConfusion

/-- The sequencer resolves an event only where the cursor is not at the stream's end, so an address
past the space is due to the window or to a cursor past it. -/
theorem eventStep_haltsWith (hne : k.pos ≠ k.len) (h : eventStep rom cfg k = .error d) :
    k.HaltsWith d := by
  cases hf : fetchEvent rom k with
  | error a =>
    rw [eventStep_of_error hf] at h
    cases h
    obtain ⟨ha, haddr⟩ := fetchEvent_error hf
    have hne' : k.pos.toNat ≠ k.len.toNat := mt BitVec.eq_of_toNat_eq hne
    exact .inr ⟨by omega, a, ha, by omega, rfl⟩
  | ok bs =>
    obtain ⟨e, rfl⟩ | ⟨p, rfl⟩ := fetchEvent_ok hf
    · rw [eventStep_of_event hf] at h
      cases e with
      | note p t => exact noteStep_haltsWith h
      | rest t => exact restStep_haltsWith h
    · rw [eventStep_of_missingTick hf] at h
      cases h
      exact noteWithoutTick_haltsWith p

/-- Every step without a result is one of the spec's three faults or a stop of the machine. -/
theorem seqStep_haltsWith (h : seqStep rom cfg k = .error d) : k.HaltsWith d := by
  obtain ⟨-, e⟩ | ⟨-, -, e⟩ | ⟨-, e⟩ | ⟨-, e⟩ | ⟨hev, e⟩ := seqStep_cases rom cfg k <;> rw [e] at h
  · cases h
  · exact produce_haltsWith h rfl
  · exact produce_haltsWith (k₁ := { k with phase := 0, pos := 0, rem := 1 }) h rfl
  · cases h
  · obtain ⟨-, -, hne⟩ := Track.atEvent_iff.mp hev
    exact eventStep_haltsWith hne h

end

/-- A track in order never stops the machine (R62, R141). -/
theorem Track.not_stopsWith_of_ok {k : Track} (hk : k.ok) (f : Fault) : ¬ k.StopsWith f := by
  obtain ⟨hpos, hwin, hgen, -⟩ := hk
  rintro (⟨h, -⟩ | ⟨h, -⟩) <;> omega

/-! ### What a step that answers keeps -/

/-- The note is one of the table's and the LFSR is not locked (R24, R119). -/
def Track.InTune (k : Track) : Prop := k.currentNote.toNat ≤ 71 ∧ lfsrAlive k.noise

section

variable {rom : Rom} {cfg : GlobalCfg} {k k' : Track} {v : Sample}

/-- PRODUCE clocks the LFSR at most once (R118). -/
theorem produce_inTune {wrapped : Bool} (h : produce rom cfg wrapped k = .ok (k', v))
    (hk : k.InTune) : k'.InTune := by
  obtain ⟨hnote, halive⟩ := hk
  obtain ⟨hk', hnoise⟩ := produce_ok h
  refine ⟨by rw [hk']; exact hnote, ?_⟩
  obtain e | e | e := hnoise <;> rw [e]
  · exact halive
  · exact lfsrAlive_lfsrClock (by decide) halive
  · exact lfsrAlive_lfsrClock (by decide) halive

/-- A NOTE that answers has a table pitch (R144). -/
theorem noteStep_inTune {p : Pitch} {t : Byte} (hk : k.InTune)
    (h : noteStep rom cfg p t k = .ok (k', v)) : k'.InTune := by
  obtain ⟨-, e⟩ | ⟨-, -, e⟩ | ⟨-, -, -, e⟩ | ⟨hp, -, -, e⟩ := noteStep_cases rom cfg p t k <;>
    rw [e] at h
  · cases h
  · cases h
  · cases h
  · obtain ⟨-, halive⟩ := hk
    exact produce_inTune h ⟨Nat.le_of_lt_succ hp, halive⟩

theorem restStep_inTune {t : BitVec 7} (hk : k.InTune)
    (h : restStep rom cfg t k = .ok (k', v)) : k'.InTune := by
  obtain ⟨-, e⟩ | ⟨-, e⟩ := restStep_cases rom cfg t k <;> rw [e] at h <;> cases h
  exact hk

theorem seqStep_inTune (hk : k.InTune) (h : seqStep rom cfg k = .ok (k', v)) : k'.InTune := by
  obtain ⟨-, e⟩ | ⟨-, -, e⟩ | ⟨-, e⟩ | ⟨-, e⟩ | ⟨-, e⟩ := seqStep_cases rom cfg k <;> rw [e] at h
  · cases h; exact hk
  · exact produce_inTune h hk
  · exact produce_inTune (k := { k with phase := 0, pos := 0, rem := 1 }) h hk
  · cases h; exact hk
  · obtain ⟨p, t, hn⟩ | ⟨t, hr⟩ := eventStep_ok h
    · exact noteStep_inTune hk hn
    · exact restStep_inTune hk hr

/-- A step that answers leaves a track in order. -/
theorem seqStep_keeps_ok (hk : k.ok) (h : seqStep rom cfg k = .ok (k', v)) : k'.ok := by
  obtain ⟨hpos, hwin, hgen, htune⟩ := hk
  obtain ⟨hpos', hlen, hbase, hgen', -⟩ := cursorStaysInTheWindow rom cfg k k' v hpos h
  exact ⟨hpos', by rw [hlen, hbase]; exact hwin, by rw [hgen']; exact hgen, seqStep_inTune htune h⟩

end

end Sys2Proof.Machine
end

section
/-! PROOFS. The pipeline and host operations: when each is taken, and what it then leaves
(spec/43_pipeline.md R193 to R198; spec/70_reset_and_hazards.md R250 to R258; spec/60_exceptions.md
R226). -/

namespace Sys2Proof.Machine

open Sys2Proof

/-! ### When the operations are enabled -/

theorem State.commitEnabled_iff {s : State} :
    s.commitEnabled = true ↔ s.live = true ∧ s.busy = true := by
  simp [State.commitEnabled]

theorem State.startEnabled_iff {s : State} :
    s.startEnabled = true ↔
      s.live = true ∧ s.ready = true ∧ s.busy = false ∧ s.fault.code = .none := by
  simp [State.startEnabled, and_assoc]

theorem State.initEnabled_iff {s : State} :
    s.initEnabled = true ↔ s.live = true ∧ s.busy = false := by
  simp [State.initEnabled]

theorem State.not_live_iff {s : State} :
    s.live = false ↔ s.resetDone = false ∨ s.cfgStatus ≠ .accepted := by
  rw [← Bool.not_eq_true, State.live_iff, not_and_or, Bool.not_eq_true]

theorem State.commitEnabled_of_not_live {s : State} (h : s.live = false) :
    s.commitEnabled = false := by
  simp [State.commitEnabled, h]

theorem State.startEnabled_of_not_live {s : State} (h : s.live = false) :
    s.startEnabled = false := by
  simp [State.startEnabled, h]

theorem State.initEnabled_of_not_live {s : State} (h : s.live = false) :
    s.initEnabled = false := by
  simp [State.initEnabled, h]

/-! ### A block that is not live -/

theorem exec_tick_of_not_live {s : State} (h : s.live = false) : exec .tick s = .next s := by
  change execTick s = _
  rw [execTick, if_neg (by simp [h])]

theorem exec_computeStart_of_not_enabled {s : State} (h : s.startEnabled = false) :
    exec .computeStart s = .next s := by
  change execComputeStart s = _
  rw [execComputeStart, if_neg (by simp [h])]

theorem exec_computeCommit_of_not_enabled {s : State} (h : s.commitEnabled = false) :
    exec .computeCommit s = .next s := by
  change execComputeCommit s = _
  rw [execComputeCommit, if_neg (by simp [h])]

theorem exec_mix_of_not_enabled {s : State} (h : s.commitEnabled = false) :
    exec .mix s = .next s := by
  change execMix s = _
  rw [execMix, if_neg (by simp [h])]

theorem exec_trackInit_of_not_enabled {s : State} (h : s.initEnabled = false) (i : TrackId)
    (c : TrackCfg) : exec (.trackInit i c) s = .next s := by
  change execTrackInit i c s = _
  rw [execTrackInit, if_neg (by simp [h])]

/-- No operation on one track is taken outside a computation (R194). -/
theorem exec_trackOperation_of_not_enabled {s : State} {x : Instr} {i : TrackId}
    (hx : trackOperation x = some i) (h : s.commitEnabled = false) : exec x s = .next s := by
  obtain ⟨taken, f, e⟩ := exec_onTrack s hx
  rw [e, State.onTrack_not_computing h]

/-- Before an accepted RESET no operation but a RESET is taken (R36, R252). -/
theorem exec_of_not_live {s : State} {x : Instr} (h : s.live = false) (hx : isReset x = false) :
    exec x s = .next s := by
  have hc := State.commitEnabled_of_not_live h
  cases htr : trackOperation x with
  | some i => exact exec_trackOperation_of_not_enabled htr hc
  | none =>
    cases x with
    | mix => exact exec_mix_of_not_enabled hc
    | tick => exact exec_tick_of_not_live h
    | computeStart =>
      exact exec_computeStart_of_not_enabled (State.startEnabled_of_not_live h)
    | computeCommit => exact exec_computeCommit_of_not_enabled hc
    | trackInit i c =>
      exact exec_trackInit_of_not_enabled (State.initEnabled_of_not_live h) i c
    | reset => cases hx
    | genReserved101 i => cases hx
    | genReserved110 i => cases hx
    | genReserved111 i => cases hx
    | _ => cases htr

/-- Settles O46: every enabling condition but RESET's asks for a live block. -/
theorem onlyResetLeavesARefusedBlock : Obligations.OnlyResetLeavesARefusedBlock := by
  intro s x h hx
  exact exec_of_not_live (State.not_live_iff.mpr h) hx

/-! ### COMPUTE_START -/

theorem exec_computeStart_of_enabled {s : State} (h : s.startEnabled = true) :
    exec .computeStart s = .next (s.setBusy true) := by
  change execComputeStart s = _
  rw [execComputeStart, if_pos h]

/-- Settles O39: the enabling condition is the conjunction R193 lists. -/
theorem computeStartSetsBusy : Obligations.ComputeStartSetsBusy := by
  intro s
  constructor
  · intro hreset haccepted hready hbusy hfault
    have hlive := State.live_iff.mpr ⟨hreset, haccepted⟩
    exact exec_computeStart_of_enabled
      (State.startEnabled_iff.mpr ⟨hlive, hready, hbusy, hfault⟩)
  · intro h
    refine exec_computeStart_of_not_enabled (Bool.eq_false_iff.mpr fun hen => ?_)
    obtain ⟨hlive, hready, hbusy, hfault⟩ := State.startEnabled_iff.mp hen
    obtain ⟨-, haccepted⟩ := State.live_iff.mp hlive
    simp [hready, hbusy, hfault, haccepted] at h

/-! ### TRACK_INIT -/

theorem State.initRefused_iff {s : State} {i : TrackId} {c : TrackCfg} :
    s.initRefused i c = true ↔
      s.cfg.nTracks ≤ i.toNat ∨ 4 < c.gen.toNat ∨ 65536 < c.base.toNat + c.len.toNat := by
  simp [State.initRefused, genAccepted, windowAccepted, or_assoc]

theorem exec_trackInit_of_refused {s : State} {i : TrackId} {c : TrackCfg}
    (h : s.initEnabled = true) (hr : s.initRefused i c = true) :
    exec (.trackInit i c) s = .next (s.answer .refused) := by
  change execTrackInit i c s = _
  rw [execTrackInit, if_pos h, if_pos hr]

theorem exec_trackInit_of_accepted {s : State} {i : TrackId} {c : TrackCfg}
    (h : s.initEnabled = true) (hr : s.initRefused i c = false) :
    exec (.trackInit i c) s =
      .next ((s.setTrack i (Track.init s.cfg.noiseSeed c)).answer .accepted) := by
  change execTrackInit i c s = _
  rw [execTrackInit, if_pos h, if_neg (by simp [hr])]

/-- Settles O42: a request that meets the three conditions of R197 loads the track. -/
theorem trackInitLoadsOneTrack : Obligations.TrackInitLoadsOneTrack := by
  intro s i c hreset haccepted hbusy hi hg hw
  have hen : s.initEnabled = true :=
    State.initEnabled_iff.mpr ⟨State.live_iff.mpr ⟨hreset, haccepted⟩, hbusy⟩
  have hr : s.initRefused i c = false := by
    rw [← Bool.not_eq_true, State.initRefused_iff]
    omega
  exact exec_trackInit_of_accepted hen hr

/-- TRACK_INIT is held off during a computation (R197). -/
theorem State.initEnabled_of_busy {s : State} (h : s.busy = true) : s.initEnabled = false := by
  simp [State.initEnabled, h]

/-- While TRACK_INIT is held off, the turn of a waiting request takes no operation (R256). -/
theorem State.operation_serve_of_busy {s : State} (h : s.busy = true) :
    s.operation .serve = none := by
  unfold State.operation
  cases s.waiting <;> simp [State.initEnabled_of_busy h]

/-! ### The configuration checks -/

theorem noiseSeed_locked_iff {x : Word16} : x.extractLsb' 0 15 = 0 ↔ x.toNat % 2 ^ 15 = 0 := by
  rw [← BitVec.toNat_inj]
  simp

theorem Pins.bank_all_genAccepted {p : Pins} :
    (!p.bank.all genAccepted) = true ↔ ∃ j < p.global.nTracks, 4 < (p.cfgAt j).gen.toNat := by
  simp [Pins.bank, genAccepted]

theorem Pins.bank_all_windowAccepted {p : Pins} :
    (!p.bank.all windowAccepted) = true ↔
      ∃ j < p.global.nTracks, 65536 < (p.cfgAt j).base.toNat + (p.cfgAt j).len.toNat := by
  simp [Pins.bank, windowAccepted]

/-- The codes of CFG_STATUS (R36). -/
theorem CfgStatus.bits_table (c : CfgStatus) :
    (c, c.bits.toNat) ∈
      [(CfgStatus.accepted, 0), (CfgStatus.nTracks, 1), (CfgStatus.attenRange, 2),
       (CfgStatus.attenPos, 3), (CfgStatus.attenNeg, 4), (CfgStatus.sptZero, 5),
       (CfgStatus.sptOverflow, 6), (CfgStatus.gen, 7), (CfgStatus.window, 8),
       (CfgStatus.seed, 9)] := by
  cases c <;> decide

/-- Settles O45: check by check, each condition of R226 is the negation of the model's. -/
theorem configurationChecksInOrder : Obligations.ConfigurationChecksInOrder := by
  constructor
  · rintro p N e spt rfl rfl rfl
    simp only [Pins.check, Nat.shiftRight_eq_div_pow]
    exact if_congr (by omega) rfl <| if_congr (by omega) rfl <| if_congr (by omega) rfl <|
      if_congr (by omega) rfl <| if_congr (by omega) rfl <| if_congr (by omega) rfl <|
      if_congr Pins.bank_all_genAccepted rfl <| if_congr Pins.bank_all_windowAccepted rfl <|
      if_congr noiseSeed_locked_iff rfl rfl
  · intro s t h
    cases h
    exact CfgStatus.bits_table s.pins.check

/-! ### RESET -/

/-- Settles O44: an accepted configuration is loaded into every track; a refused one leaves the
pipeline registers at their reset values and the block not live. -/
theorem resetGivesEveryRegisterItsValue : Obligations.ResetGivesEveryRegisterItsValue := by
  intro s
  constructor
  · intro h
    change Host.Outcome.next s.doReset = _
    rw [State.doReset, State.bankAfterReset_accepted h, h, Pins.bank, List.map_map]
    rfl
  · intro h
    exact ⟨s.doReset, rfl, rfl, rfl, rfl, rfl, rfl, rfl, rfl, rfl,
      State.not_live_iff.mpr (.inr h)⟩

theorem FaultCode.bits_table (c : FaultCode) :
    (c, c.bits) ∈
      [(FaultCode.none, 0#2), (FaultCode.streamOverrun, 1#2), (FaultCode.badPitch, 2#2),
       (FaultCode.zeroDuration, 3#2)] := by
  cases c <;> decide

/-- Settles O47: the reset state by its values, and the status port field by field. -/
theorem stateAfterReset : Obligations.StateAfterReset := by
  refine ⟨rfl, rfl, rfl, rfl, rfl, by decide, rfl, fun s => ?_⟩
  refine ⟨fun j k hk => ?_, by simp [State.status], rfl, rfl, FaultCode.bits_table _, rfl, rfl⟩
  simp [State.status, hk]

/-! ### The reserved generator codes -/

/-- The replaced entry of a list of records reads as the new record. -/
theorem setCfg_getD (cs : List TrackCfg) (n : Nat) (c : TrackCfg) :
    (setCfg cs n c).getD n TrackCfg.zero = c := by
  induction n generalizing cs with
  | zero => cases cs <;> rfl
  | succ n ih => cases cs <;> exact ih _

theorem Pins.withGen_cfgAt (p : Pins) (i : Nat) (g : BitVec 3) :
    (p.withGen i g).cfgAt i = { p.cfgAt i with gen := g } :=
  setCfg_getD _ _ _

/-- A reserved code presented for a track that exists fails the check CFG_GEN, where the checks
before it pass (R226). -/
theorem Pins.check_withGen {p : Pins} {i : Nat} {g : BitVec 3} (h : configInRange p.global)
    (hi : i < p.global.nTracks) (hg : 4 < g.toNat) : (p.withGen i g).check = .gen := by
  obtain ⟨h1, h2, h3, h4, h5, h6, h7⟩ := h
  have hgen : (!(p.withGen i g).bank.all genAccepted) = true :=
    Pins.bank_all_genAccepted.mpr ⟨i, hi, by rw [Pins.withGen_cfgAt]; exact hg⟩
  have hglobal : (p.withGen i g).global = p.global := rfl
  simp only [Pins.check, hglobal]
  rw [if_neg (not_not.mpr ⟨h1, h2⟩), if_neg (not_not.mpr h3), if_neg (not_not.mpr h4),
    if_neg (not_not.mpr h5), if_neg (not_not.mpr h6), if_neg (not_not.mpr h7), if_pos hgen]

/-- Each of the three operations is a RESET on the pins that present its code (R86). -/
theorem exec_genReserved {s : State} {i : TrackId} {x : Instr}
    (hx : x ∈ [.genReserved101 i, .genReserved110 i, .genReserved111 i]) :
    ∃ g : BitVec 3, 4 < g.toNat ∧ exec x s = .next (s.resetWithGen i g) := by
  simp only [List.mem_cons, List.not_mem_nil, or_false] at hx
  obtain rfl | rfl | rfl := hx
  · exact ⟨0b101#3, by decide, rfl⟩
  · exact ⟨0b110#3, by decide, rfl⟩
  · exact ⟨0b111#3, by decide, rfl⟩

/-- Settles O18: the presented code fails CFG_GEN, and the refused RESET leaves the block not
live. -/
theorem reservedGeneratorCodesAreRefused : Obligations.ReservedGeneratorCodesAreRefused := by
  intro s i x hx hrange hi
  obtain ⟨g, hg, e⟩ := exec_genReserved (s := s) hx
  have hcheck : (s.resetWithGen i g).cfgStatus = .gen := Pins.check_withGen hrange hi hg
  exact ⟨_, e, hcheck, rfl, rfl, rfl, rfl,
    State.not_live_iff.mpr (.inr (by rw [hcheck]; decide)), rfl, rfl⟩

end Sys2Proof.Machine
end

section
/-! PROOFS. The invariant of the block: every operation an agent's move takes keeps it, and so does
every step (spec/10_state.md R20 to R36; spec/60_exceptions.md R221). -/

namespace Sys2Proof.Machine

open Sys2Proof

/-! ### The invariant of a live block -/

/-- The configuration is in range, and every track and the fault record fit it. -/
def State.BankInOrder (s : State) : Prop :=
  configInRange s.cfg ∧ lfsrAlive s.cfg.noiseSeed ∧ s.tracks.length = s.cfg.nTracks ∧
    (∀ k ∈ s.tracks, k.ok) ∧ (s.fault.code ≠ .none → s.fault.track.toNat < s.cfg.nTracks)

/-- BUSY only with READY and without a fault; READY only when the last value the DAC got is HELD. -/
def State.PipelineInOrder (s : State) : Prop :=
  (s.busy = true → s.ready = true ∧ s.fault.code = .none) ∧
    (s.ready = true → s.dac.getLast? = some s.held)

theorem State.inv_iff_of_live {s : State} (h : s.live = true) :
    s.Inv ↔ Memory.wf s.rom.stream = true ∧ s.BankInOrder ∧ s.PipelineInOrder := by
  obtain ⟨hreset, haccepted⟩ := State.live_iff.mp h
  simp only [State.Inv, State.BankInOrder, State.PipelineInOrder, hreset, haccepted,
    forall_true_left, ne_eq, not_true_eq_false, false_implies, and_true]

theorem State.inv_of_live {s : State} (h : s.live = true) (hm : Memory.wf s.rom.stream = true)
    (hbank : s.BankInOrder) (hpipe : s.PipelineInOrder) : s.Inv :=
  (State.inv_iff_of_live h).mpr ⟨hm, hbank, hpipe⟩

/-- The invariant speaks neither of the host's lines nor of the moves ahead. -/
theorem State.inv_settle {s u : State} {e : Event} (h : u.Inv) : (s.settle e u.popEvent).Inv := by
  rw [settle_frame]
  exact h

/-! ### The operations of the moves -/

theorem Track.init_ok {seed : Word16} {c : TrackCfg} (hs : lfsrAlive seed)
    (hg : c.gen.toNat ≤ 4) (hw : c.base.toNat + c.len.toNat ≤ 65536) : (Track.init seed c).ok :=
  ⟨Nat.zero_le _, hw, hg, Nat.zero_le _, hs⟩

/-- A RESET makes the invariant hold of whatever registers there were (R250). -/
theorem State.doReset_inv {s : State} (hm : Memory.wf s.rom.stream = true) : s.doReset.Inv := by
  refine ⟨hm, fun _ => ⟨fun h => ?_, nofun, nofun, fun _ => ⟨rfl, rfl, rfl, rfl⟩⟩⟩
  replace h : s.pins.check = .accepted := h
  obtain ⟨hrange, hgen, hwin, hseed⟩ := Pins.check_accepted h
  have htracks : s.doReset.tracks = s.pins.bank.map (Track.init s.pins.global.noiseSeed) :=
    State.bankAfterReset_accepted h
  refine ⟨hrange, hseed, ?_, ?_, fun hf => absurd rfl hf⟩
  · rw [htracks, List.length_map, Pins.bank, List.length_map, List.length_range]
    rfl
  · rw [htracks, List.forall_mem_map]
    intro c hc
    exact Track.init_ok hseed (of_decide_eq_true (List.all_eq_true.mp hgen c hc))
      (of_decide_eq_true (List.all_eq_true.mp hwin c hc))

section

variable {s : State}

theorem State.inv_tick (hl : s.live = true) (hs : s.Inv) :
    ((s.dacWrite s.held).setReady true).Inv := by
  obtain ⟨hm, hbank, hbusy, -⟩ := (State.inv_iff_of_live hl).mp hs
  exact State.inv_of_live hl hm hbank ⟨fun hb => ⟨rfl, (hbusy hb).2⟩, fun _ => by simp⟩

theorem State.inv_computeStart (hen : s.startEnabled = true) (hs : s.Inv) :
    (s.setBusy true).Inv := by
  obtain ⟨hl, hready, -, hfault⟩ := State.startEnabled_iff.mp hen
  obtain ⟨hm, hbank, -, hdac⟩ := (State.inv_iff_of_live hl).mp hs
  exact State.inv_of_live hl hm hbank ⟨fun _ => ⟨hready, hfault⟩, hdac⟩

theorem State.inv_answer (a : InitAnswer) (hs : s.Inv) : (s.answer a).Inv := hs

theorem State.inv_trackInit {i : TrackId} {c : TrackCfg} (hl : s.live = true)
    (hr : s.initRefused i c = false) (hs : s.Inv) :
    (s.setTrack i (Track.init s.cfg.noiseSeed c)).Inv := by
  rw [← Bool.not_eq_true, State.initRefused_iff] at hr
  obtain ⟨hm, ⟨hrange, hseed, hlen, hok, hf⟩, hpipe⟩ := (State.inv_iff_of_live hl).mp hs
  have hnew := Track.init_ok (c := c) hseed (by omega) (by omega)
  refine State.inv_of_live hl hm ⟨hrange, hseed, ?_, fun k hk => ?_, hf⟩ hpipe
  · rwa [State.setTrack_tracks, List.length_set]
  · obtain hk' | rfl := List.mem_or_eq_of_mem_set hk
    · exact hok k hk'
    · exact hnew

/-- Every track that has stepped is in order again. -/
theorem tracks_ok_of_results {ks : List Track} {rs : List (Track × Sample)} {rom : Rom}
    {cfg : GlobalCfg} (h : ks.map (seqStep rom cfg) = rs.map .ok) (hok : ∀ k ∈ ks, k.ok) :
    ∀ k ∈ rs.map Prod.fst, k.ok := by
  rw [List.forall_mem_map]
  rintro ⟨k', v⟩ hr
  have hmem : (.ok (k', v) : Except Halt (Track × Sample)) ∈ ks.map (seqStep rom cfg) :=
    h ▸ List.mem_map_of_mem hr
  obtain ⟨k, hk, e⟩ := List.mem_map.mp hmem
  exact seqStep_keeps_ok (hok k hk) e

theorem length_of_results {ks : List Track} {rs : List (Track × Sample)} {rom : Rom}
    {cfg : GlobalCfg} (h : ks.map (seqStep rom cfg) = rs.map .ok) : rs.length = ks.length := by
  simpa using (congrArg List.length h).symm

theorem State.inv_computeCommit {rs : List (Track × Sample)} (hl : s.live = true)
    (h : s.tracks.map (seqStep s.rom s.cfg) = rs.map .ok) (v : Sample) (hs : s.Inv) :
    ((((s.setTracks (rs.map Prod.fst)).setHeld v).setReady false).setBusy false).Inv := by
  obtain ⟨hm, ⟨hrange, hseed, hlen, hok, hf⟩, -⟩ := (State.inv_iff_of_live hl).mp hs
  refine State.inv_of_live hl hm
    ⟨hrange, hseed, ?_, tracks_ok_of_results h hok, hf⟩ ⟨nofun, nofun⟩
  simpa using (length_of_results h).trans hlen

/-- A fault names a track the block has (R35). -/
theorem State.inv_takeFault {j : Nat} {c : FaultCode} {pos : Word16} (hl : s.live = true)
    (hj : j < s.tracks.length) (hs : s.Inv) : (s.takeFault c (BitVec.ofNat 8 j) pos).Inv := by
  obtain ⟨hm, ⟨hrange, hseed, hlen, hok, hf⟩, -, hdac⟩ := (State.inv_iff_of_live hl).mp hs
  have hl' : (s.takeFault c (BitVec.ofNat 8 j) pos).live = true := by
    simpa [State.live] using hl
  rw [State.inv_iff_of_live hl', State.BankInOrder, State.PipelineInOrder]
  simp only [State.takeFault_rom, State.takeFault_cfg, State.takeFault_tracks,
    State.takeFault_busy, State.takeFault_ready, State.takeFault_dac, State.takeFault_held]
  refine ⟨hm, ⟨hrange, hseed, hlen, hok, ?_⟩, nofun, hdac⟩
  obtain ⟨-, hmax, -⟩ := hrange
  rw [State.takeFault_fault]
  split_ifs
  · intro _
    rw [BitVec.toNat_ofNat]
    omega
  · exact hf

end

/-! ### Every operation a move takes, and every step -/

theorem exec_tick_keeps_inv {s u : State} (hs : s.Inv) (h : exec .tick s = .next u) : u.Inv := by
  cases hl : s.live with
  | false => rw [exec_tick_of_not_live hl] at h; cases h; exact hs
  | true => rw [exec_tick_of_live hl] at h; cases h; exact State.inv_tick hl hs

theorem exec_computeStart_keeps_inv {s u : State} (hs : s.Inv)
    (h : exec .computeStart s = .next u) : u.Inv := by
  cases hen : s.startEnabled with
  | false => rw [exec_computeStart_of_not_enabled hen] at h; cases h; exact hs
  | true => rw [exec_computeStart_of_enabled hen] at h; cases h; exact State.inv_computeStart hen hs

theorem exec_trackInit_keeps_inv {s u : State} {i : TrackId} {c : TrackCfg} (hs : s.Inv)
    (h : exec (.trackInit i c) s = .next u) : u.Inv := by
  cases hen : s.initEnabled with
  | false => rw [exec_trackInit_of_not_enabled hen] at h; cases h; exact hs
  | true =>
    obtain ⟨hl, -⟩ := State.initEnabled_iff.mp hen
    cases hr : s.initRefused i c with
    | true =>
      rw [exec_trackInit_of_refused hen hr] at h; cases h
      exact State.inv_answer .refused hs
    | false =>
      rw [exec_trackInit_of_accepted hen hr] at h; cases h
      exact State.inv_answer .accepted (State.inv_trackInit hl hr hs)

theorem exec_computeCommit_keeps_inv {s u : State} (hs : s.Inv)
    (h : exec .computeCommit s = .next u) : u.Inv := by
  change execComputeCommit s = _ at h
  obtain ⟨-, e⟩ | ⟨hen, rs, hrs, e⟩ | ⟨hen, j, k, d, hk, -, e⟩ := execComputeCommit_cases s <;>
    rw [e] at h
  · cases h; exact hs
  · cases h
    obtain ⟨hl, -⟩ := State.commitEnabled_iff.mp hen
    exact State.inv_computeCommit hl hrs _ hs
  · obtain ⟨hl, -⟩ := State.commitEnabled_iff.mp hen
    obtain ⟨c, -, rfl⟩ := State.halted_next h
    exact State.inv_takeFault hl (List.getElem?_eq_some_iff.mp hk).1 hs

/-- Every operation that a move takes keeps the invariant. -/
theorem exec_keeps_inv {s u : State} {e : Event} {x : Instr} (ho : s.operation e = some x)
    (hs : s.Inv) (h : exec x s = .next u) : u.Inv := by
  obtain ⟨-, rfl⟩ | ⟨-, rfl⟩ | ⟨-, rfl, -⟩ | ⟨-, rfl, -⟩ | ⟨-, -, r, ws, -, rfl⟩ :=
    operation_some ho
  · exact exec_tick_keeps_inv hs h
  · cases h
    obtain ⟨hm, -⟩ := hs
    exact State.doReset_inv hm
  · exact exec_computeCommit_keeps_inv hs h
  · exact exec_computeStart_keeps_inv hs h
  · exact exec_trackInit_keeps_inv hs h

/-- Settles O59: a step is a move of the host's lines, which the invariant does not speak of, or an
operation, which keeps it. -/
theorem everyStepKeepsTheInvariant : Obligations.EveryStepKeepsTheInvariant := by
  intro s t hs h
  obtain ⟨-, rfl⟩ | ⟨x, u, ho, hu, rfl⟩ := step_next h
  · exact State.inv_settle hs
  · exact State.inv_settle (exec_keeps_inv ho hs hu)

/-- Settles O58: the reset state is what a RESET leaves. -/
theorem invariantHoldsAtReset : Obligations.InvariantHoldsAtReset :=
  State.doReset_inv (s := State.reset) reset_memory_wf

/-! ### From the invariant a step always answers -/

/-- With every track in order a COMMIT cannot stop the machine. -/
theorem exec_computeCommit_of_inv {s : State} (hs : s.Inv) :
    ∃ u, exec .computeCommit s = .next u := by
  obtain ⟨-, e⟩ | ⟨-, rs, -, e⟩ | ⟨hen, j, k, d, hk, hd, e⟩ := execComputeCommit_cases s
  · exact ⟨_, e⟩
  · exact ⟨_, e⟩
  · obtain ⟨hl, -⟩ := State.commitEnabled_iff.mp hen
    obtain ⟨-, ⟨-, -, -, hok, -⟩, -⟩ := (State.inv_iff_of_live hl).mp hs
    cases d with
    | raised c => exact ⟨_, e⟩
    | stuck f =>
      exact absurd (seqStep_haltsWith hd)
        (Track.not_stopsWith_of_ok (hok k (List.mem_of_getElem? hk)) f)

theorem exec_of_inv {s : State} {e : Event} {x : Instr} (ho : s.operation e = some x)
    (hs : s.Inv) : ∃ u, exec x s = .next u := by
  obtain ⟨-, rfl⟩ | ⟨-, rfl⟩ | ⟨-, rfl, -⟩ | ⟨-, rfl, -⟩ | ⟨-, -, r, ws, -, rfl⟩ :=
    operation_some ho
  · exact ⟨_, rfl⟩
  · exact ⟨_, rfl⟩
  · exact exec_computeCommit_of_inv hs
  · exact ⟨_, rfl⟩
  · exact ⟨_, rfl⟩

theorem step_of_no_operation {s : State} (h : s.operation s.nextEvent = none) :
    step s = .next (s.settle s.nextEvent s.popEvent) := by
  rw [step, h]

theorem step_of_operation {s u : State} {x : Instr} (ho : s.operation s.nextEvent = some x)
    (h : exec x s = .next u) : step s = .next (s.settle s.nextEvent u.popEvent) := by
  simp only [step, ho, h]

/-- Settles O60: only a COMMIT could stop the machine, and with every track in order it does not. -/
theorem invariantStatesNeverStop : Obligations.InvariantStatesNeverStop := by
  intro s hs
  cases ho : s.operation s.nextEvent with
  | none => exact ⟨_, step_of_no_operation ho⟩
  | some x =>
    obtain ⟨u, hu⟩ := exec_of_inv ho hs
    exact ⟨_, step_of_operation ho hu⟩

end Sys2Proof.Machine
end

section
/-! PROOFS. The mixer and the COMMIT that runs it: the sum of the terms, the lowest faulting track,
and what one track's step can depend on (spec/42_mixer.md R171 to R176; spec/43_pipeline.md R194;
spec/60_exceptions.md R221, R225). -/

namespace Sys2Proof.Machine

open Sys2Proof

/-! ### One track's term -/

/-- Settles O33: the shift is the quotient of integers rounded down, which is the floor of the
rational one. -/
theorem attenuationRoundsDown : Obligations.AttenuationRoundsDown := by
  intro e v
  have h := Rat.floor_intCast_div_natCast (offset v) (2 ^ e)
  rw [mixTerm_eq_ediv]
  push_cast [offset] at h ⊢
  exact h.symm

/-- The mid-point adds nothing to the mix (R176). -/
theorem mixTerm_silence (e : Nat) : mixTerm e silence = 0 := by
  rw [mixTerm_eq_ediv]
  exact Int.zero_ediv _

/-! ### Every track answers -/

section

variable {s : State} {rs : List (Track × Sample)}

theorem State.mixed_of_results (h : s.tracks.map (seqStep s.rom s.cfg) = rs.map .ok) :
    s.mixed = .ok (rs.map Prod.fst, rebias (rs.map fun r => mixTerm s.cfg.attenExp r.2).sum) := by
  rw [State.mixed, mixFrom_ok h]

theorem exec_mix_of_results (hen : s.commitEnabled = true)
    (h : s.tracks.map (seqStep s.rom s.cfg) = rs.map .ok) :
    exec .mix s = .next ((s.setTracks (rs.map Prod.fst)).setSample
      (rebias (rs.map fun r => mixTerm s.cfg.attenExp r.2).sum)) := by
  change execMix s = _
  rw [execMix, if_pos hen, State.mixed_of_results h]

theorem exec_computeCommit_of_results (hen : s.commitEnabled = true)
    (h : s.tracks.map (seqStep s.rom s.cfg) = rs.map .ok) :
    exec .computeCommit s = .next ((((s.setTracks (rs.map Prod.fst)).setHeld
      (rebias (rs.map fun r => mixTerm s.cfg.attenExp r.2).sum)).setReady false).setBusy
        false) := by
  change execComputeCommit s = _
  rw [execComputeCommit, if_pos hen, State.mixed_of_results h]

end

/-- Settles O34: the loop of MIX with every track answering. -/
theorem mixSumsEveryTrack : Obligations.MixSumsEveryTrack := by
  intro s rs hen h
  exact exec_mix_of_results hen h

/-- Settles O36: every term of the sum is 0. -/
theorem silentTracksMixToSilence : Obligations.SilentTracksMixToSilence := by
  intro s rs hen h hsilent
  have hterms : (rs.map fun r => mixTerm s.cfg.attenExp r.2) = List.replicate rs.length 0 :=
    List.map_eq_replicate_iff.mpr fun r hr => by rw [hsilent r hr, mixTerm_silence]
  rw [exec_mix_of_results hen h, hterms, List.sum_replicate, smul_zero]
  rfl

/-- Settles O40: the mix of the tracks' steps, stored. -/
theorem computeCommitStoresTheMix : Obligations.ComputeCommitStoresTheMix := by
  intro s rs hreset haccepted hbusy h
  have hen := State.commitEnabled_iff.mpr ⟨State.live_iff.mpr ⟨hreset, haccepted⟩, hbusy⟩
  exact exec_computeCommit_of_results hen h

/-! ### A track that faults -/

/-- MIX is cut short by the first track whose step has no result (R171). -/
theorem mixFrom_of_lowest {rom : Rom} {cfg : GlobalCfg} {ks : List Track} {j : Nat} {k : Track}
    {d : Halt} (hk : ks[j]? = some k) (hd : seqStep rom cfg k = .error d)
    (hlow : ∀ m k', m < j → ks[m]? = some k' → ∃ r, seqStep rom cfg k' = .ok r) :
    mixFrom rom cfg 0 ks = .error { track := j, pos := k.pos, halt := d } := by
  cases hm : mixFrom rom cfg 0 ks with
  | ok q =>
    obtain ⟨rs, hrs, -, -⟩ := mixFrom_ok_inv hm
    have hj := congrArg (·[j]?) hrs
    simp [hk, hd] at hj
  | error e =>
    obtain ⟨j', k', hj', hk', hpos, hd', hlow'⟩ := mixFrom_error_inv hm
    rw [Nat.zero_add] at hj'
    obtain hlt | rfl | hgt := Nat.lt_trichotomy j j'
    · obtain ⟨r, hr⟩ := hlow' j k hlt hk
      cases hd.symm.trans hr
    · cases hk.symm.trans hk'
      cases hd.symm.trans hd'
      rw [← hj', ← hpos]
    · obtain ⟨r, hr⟩ := hlow j' k' hgt hk'
      cases hd'.symm.trans hr

theorem FaultCode.bits_table_of_ne_none {c : FaultCode} (h : c ≠ .none) :
    (c, c.bits.toNat) ∈
      [(FaultCode.streamOverrun, 1), (FaultCode.badPitch, 2), (FaultCode.zeroDuration, 3)] := by
  cases c with
  | none => exact absurd rfl h
  | _ => decide

/-- Settles O37: COMMIT and MIX both end in the fault of the lowest track whose step raises one. -/
theorem lowestFaultingTrackIsRecorded : Obligations.LowestFaultingTrackIsRecorded := by
  intro s j k c hen hfault hk hd hlow
  have hmixed : s.mixed = .error { track := j, pos := k.pos, halt := .raised c } := by
    rw [State.mixed, mixFrom_of_lowest hk hd hlow]
  have htake := State.takeFault_of_no_fault hfault c (BitVec.ofNat 8 j) k.pos
  have hcommit : exec .computeCommit s = .next (s.takeFault c (BitVec.ofNat 8 j) k.pos) := by
    change execComputeCommit s = _
    rw [execComputeCommit, if_pos hen, hmixed]
    rfl
  have hmix : exec .mix s = .next (s.takeFault c (BitVec.ofNat 8 j) k.pos) := by
    change execMix s = _
    rw [execMix, if_pos hen, hmixed]
    rfl
  refine ⟨by rw [hcommit, htake], hmix.trans hcommit.symm, fun t ht => ?_⟩
  rw [hcommit, htake] at ht
  cases ht
  exact ⟨FaultCode.bits_table_of_ne_none (seqStep_haltsWith hd), BitVec.toNat_ofNat j 8, rfl⟩

/-! ### A COMMIT that completes -/

/-- A COMMIT that leaves no fault stepped every track (R194). -/
theorem results_of_exec_computeCommit {s t : State} (hen : s.commitEnabled = true)
    (h : exec .computeCommit s = .next t) (ht : t.fault.code = .none) :
    ∃ rs : List (Track × Sample), s.tracks.map (seqStep s.rom s.cfg) = rs.map .ok ∧
      t = (((s.setTracks (rs.map Prod.fst)).setHeld
        (rebias (rs.map fun r => mixTerm s.cfg.attenExp r.2).sum)).setReady false).setBusy
          false := by
  change execComputeCommit s = _ at h
  obtain ⟨hno, -⟩ | ⟨-, rs, hrs, e⟩ | ⟨-, j, k, d, -, hd, e⟩ := execComputeCommit_cases s
  · simp [hen] at hno
  · cases e.symm.trans h
    exact ⟨rs, hrs, rfl⟩
  · obtain ⟨c, rfl, rfl⟩ := State.halted_next (e.symm.trans h)
    rw [State.takeFault_fault] at ht
    split_ifs at ht with hf
    · exact absurd ht (seqStep_haltsWith hd)
    · exact absurd ht hf

/-- The result at place `j` is that of track `j`'s own step. -/
theorem results_getElem? {ks : List Track} {rs : List (Track × Sample)} {rom : Rom}
    {cfg : GlobalCfg} (h : ks.map (seqStep rom cfg) = rs.map .ok) (j : Nat) :
    rs[j]?.map .ok = ks[j]?.map (seqStep rom cfg) := by
  rw [← List.getElem?_map, ← List.getElem?_map, h]

/-- Settles O56: in both blocks the track after the COMMIT is the result of the same step. -/
theorem tracksDoNotInterfere : Obligations.TracksDoNotInterfere := by
  intro s s' t t' j hen hen' hrom hcfg htrack _ _ h h' ht ht'
  obtain ⟨rs, hrs, rfl⟩ := results_of_exec_computeCommit hen h ht
  obtain ⟨rs', hrs', rfl⟩ := results_of_exec_computeCommit hen' h' ht'
  have hresult : rs[j]? = rs'[j]? := Option.map_injective (fun _ _ => Except.ok.inj) <| by
    rw [results_getElem? hrs, results_getElem? hrs', hrom, hcfg, htrack]
  simp [hresult]

/-- Tracks that all answer have a list of results. -/
theorem exists_results {ks : List Track} {rom : Rom} {cfg : GlobalCfg} {P : Track → Prop}
    (h : ∀ k ∈ ks, ∃ k' v, seqStep rom cfg k = .ok (k', v) ∧ P k') :
    ∃ rs : List (Track × Sample), ks.map (seqStep rom cfg) = rs.map .ok ∧
      ∀ k ∈ rs.map Prod.fst, P k := by
  induction ks with
  | nil => exact ⟨[], rfl, nofun⟩
  | cons k ks ih =>
    obtain ⟨⟨k', v, e, hk'⟩, hks⟩ := List.forall_mem_cons.mp h
    obtain ⟨rs, hrs, hP⟩ := ih hks
    exact ⟨(k', v) :: rs, by rw [List.map_cons, List.map_cons, e, hrs],
      List.forall_mem_cons.mpr ⟨hk', hP⟩⟩

/-- Settles O41: with every track in order and its stream well formed, each step answers. -/
theorem commitCompletesOnWellFormedStreams : Obligations.CommitCompletesOnWellFormedStreams := by
  intro s hs hen hplays
  obtain ⟨hl, -⟩ := State.commitEnabled_iff.mp hen
  obtain ⟨-, ⟨-, -, -, hok, -⟩, -⟩ := (State.inv_iff_of_live hl).mp hs
  obtain ⟨rs, hrs, hafter⟩ := exists_results (P := Track.playsWellFormed s.rom) fun k hk => by
    obtain ⟨k', v, e, -, hw⟩ := wellFormedStreamNeverFaults s.rom s.cfg k (hok k hk) (hplays k hk)
    exact ⟨k', v, e, hw⟩
  exact ⟨_, _, exec_computeCommit_of_results hen hrs, hafter⟩

end Sys2Proof.Machine
end

section
/-! PROOFS. What the operations leave unchanged, and when the machine itself stops
(spec/10_state.md R20 to R30; spec/60_exceptions.md R221; spec/70_reset_and_hazards.md R258). -/

namespace Sys2Proof.Machine

open Sys2Proof

/-! ### An operation on one track -/

/-- The track has the stream, the generator, LOOP and ACTIVE of `k` (R27 to R30). -/
def Track.KeepsSetup (k k' : Track) : Prop :=
  k'.base = k.base ∧ k'.len = k.len ∧ k'.gen = k.gen ∧ k'.loop = k.loop ∧ k'.active = k.active

theorem produce_keepsSetup {rom : Rom} {cfg : GlobalCfg} {wrapped : Bool} {k₁ k k' : Track}
    {v : Sample} (h : produce rom cfg wrapped k₁ = .ok (k', v)) (hk : k.KeepsSetup k₁) :
    k.KeepsSetup k' := by
  obtain ⟨hk', -⟩ := produce_ok h
  rw [hk']
  exact hk

theorem noteStep_keepsSetup {rom : Rom} {cfg : GlobalCfg} {p : Pitch} {t : Byte} {k k' : Track}
    {v : Sample} (h : noteStep rom cfg p t k = .ok (k', v)) : k.KeepsSetup k' := by
  obtain ⟨-, e⟩ | ⟨-, -, e⟩ | ⟨-, -, -, e⟩ | ⟨_, -, -, e⟩ := noteStep_cases rom cfg p t k <;>
    rw [e] at h
  · cases h
  · cases h
  · cases h
  · exact produce_keepsSetup h ⟨rfl, rfl, rfl, rfl, rfl⟩

theorem restStep_keepsSetup {rom : Rom} {cfg : GlobalCfg} {t : BitVec 7} {k k' : Track}
    {v : Sample} (h : restStep rom cfg t k = .ok (k', v)) : k.KeepsSetup k' := by
  obtain ⟨-, e⟩ | ⟨-, e⟩ := restStep_cases rom cfg t k <;> rw [e] at h <;> cases h
  exact ⟨rfl, rfl, rfl, rfl, rfl⟩

theorem endLoopStep_keepsSetup {rom : Rom} {cfg : GlobalCfg} {k k' : Track} {v : Sample}
    (h : endLoopStep rom cfg k = .ok (k', v)) : k.KeepsSetup k' :=
  produce_keepsSetup h ⟨rfl, rfl, rfl, rfl, rfl⟩

theorem noiseStep_keepsSetup (rom : Rom) (a b : Nat) (k : Track) :
    k.KeepsSetup (noiseStep rom a b k).1 := by
  rw [noiseStep_frame]
  exact ⟨rfl, rfl, rfl, rfl, rfl⟩

/-- The outcomes of an operation on track `i` whose results stand in the relation `P` to the track
it was run on. -/
def State.WritesOneTrack (s t : State) (i : TrackId) (P : Track → Track → Prop) : Prop :=
  t = s ∨ (∃ k r, s.tracks[i.toNat]? = some k ∧ P k r.1 ∧ t = s.put i r) ∨
    ∃ c pos, t = s.takeFault c i pos

theorem State.writesOneTrack_of_onTrack {s t : State} {i : TrackId} {taken : Track → Bool}
    {f : Track → Except Halt (Track × Sample)} {P : Track → Track → Prop}
    (h : s.onTrack i taken f = .next t) (hf : ∀ k k' v, f k = .ok (k', v) → P k k') :
    s.WritesOneTrack t i P := by
  obtain e | ⟨k, r, ⟨-, hk⟩, -, hr, e⟩ | ⟨k, d, -, -, -, e⟩ := s.onTrack_cases i taken f <;>
    rw [e] at h
  · cases h; exact .inl rfl
  · cases h; exact .inr (.inl ⟨k, r, hk, hf k r.1 r.2 hr, rfl⟩)
  · obtain ⟨c, -, rfl⟩ := State.halted_next h
    exact .inr (.inr ⟨c, k.pos, rfl⟩)

/-- The operations on one track are the two events, the five generators and the two end steps. -/
theorem trackOperation_cases {x : Instr} {i : TrackId} (hx : trackOperation x = some i) :
    (∃ p t, x = .note i p t) ∨ (∃ t, x = .rest i t) ∨
      x ∈ [.saw i, .tri i, .square i, .noise93 i, .noise32k i] ∨ x = .endLoop i ∨
      x = .endStop i := by
  cases x <;> cases hx <;> simp

/-- An invoked generator always answers, and writes PHASE and NOISE only (R110). -/
theorem exec_generator {x : Instr} {i : TrackId} (s : State)
    (hx : x ∈ [.saw i, .tri i, .square i, .noise93 i, .noise32k i]) :
    ∃ (code : BitVec 3) (f : Track → Track × Sample), (∀ k : Track, k.KeepsSetup (f k).1) ∧
      exec x s = s.onTrack i (Track.generates code) fun k => .ok (f k) := by
  have tonal : ∀ k : Track, k.KeepsSetup k.advance := fun k => ⟨rfl, rfl, rfl, rfl, rfl⟩
  simp only [List.mem_cons, List.not_mem_nil, or_false] at hx
  obtain rfl | rfl | rfl | rfl | rfl := hx
  · exact ⟨_, sawStep, tonal, rfl⟩
  · exact ⟨_, triStep, tonal, rfl⟩
  · exact ⟨_, squareStep, tonal, rfl⟩
  · exact ⟨_, noise93Step s.rom, noiseStep_keepsSetup s.rom 14 8, rfl⟩
  · exact ⟨_, noise32kStep s.rom, noiseStep_keepsSetup s.rom 14 13, rfl⟩

/-- The same registers kept, but for ACTIVE where the track stops (R148). -/
def Track.KeepsSetupBut (stops : Prop) (k k' : Track) : Prop :=
  k'.base = k.base ∧ k'.len = k.len ∧ k'.gen = k.gen ∧ k'.loop = k.loop ∧
    (¬ stops → k'.active = k.active)

theorem Track.KeepsSetup.but {k k' : Track} (h : k.KeepsSetup k') (stops : Prop) :
    k.KeepsSetupBut stops k' := by
  obtain ⟨hbase, hlen, hgen, hloop, hactive⟩ := h
  exact ⟨hbase, hlen, hgen, hloop, fun _ => hactive⟩

/-- END_STOP alone clears ACTIVE (R27). -/
theorem exec_trackOperation_writesOneTrack {x : Instr} {i : TrackId} {s t : State}
    (hx : trackOperation x = some i) (h : exec x s = .next t) :
    s.WritesOneTrack t i (Track.KeepsSetupBut (x = .endStop i)) := by
  obtain ⟨p, t', rfl⟩ | ⟨t', rfl⟩ | hg | rfl | rfl := trackOperation_cases hx
  · exact State.writesOneTrack_of_onTrack h fun k k' v e => (noteStep_keepsSetup e).but _
  · exact State.writesOneTrack_of_onTrack h fun k k' v e => (restStep_keepsSetup e).but _
  · obtain ⟨code, f, hf, e⟩ := exec_generator s hg
    rw [e] at h
    refine State.writesOneTrack_of_onTrack h fun k k' v e => ?_
    have hk := hf k
    rw [Except.ok.inj e] at hk
    exact hk.but _
  · exact State.writesOneTrack_of_onTrack h fun k k' v e => (endLoopStep_keepsSetup e).but _
  · refine State.writesOneTrack_of_onTrack (f := fun k => .ok (endStopStep k)) h
      fun k k' v e => ?_
    cases e
    exact ⟨rfl, rfl, rfl, rfl, fun hne => absurd rfl hne⟩

/-- Settles O54: the operation leaves the state, writes the one track, or records a fault. -/
theorem trackOperationFrame : Obligations.TrackOperationFrame := by
  intro x i s t hx h
  have hrom : t.rom = s.rom := exec_rom h
  obtain rfl | ⟨k, r, hk, hkeeps, rfl⟩ | ⟨c, pos, rfl⟩ := exec_trackOperation_writesOneTrack hx h
  · exact ⟨fun _ _ => rfl, fun k hk => ⟨k, hk, rfl, rfl, rfl, rfl, fun _ => rfl⟩, by simp⟩
  · refine ⟨fun j hj => ?_, fun k₁ hk₁ => ?_, by simp⟩
    · rw [State.put_tracks, List.getElem?_set_ne hj.symm]
    · cases hk.symm.trans hk₁
      obtain ⟨hlt, -⟩ := List.getElem?_eq_some_iff.mp hk
      exact ⟨r.1, by rw [State.put_tracks, List.getElem?_set_self hlt], hkeeps⟩
  · refine ⟨fun j _ => by rw [State.takeFault_tracks], fun k hk => ?_, by simp⟩
    exact ⟨k, by rw [State.takeFault_tracks, hk], rfl, rfl, rfl, rfl, fun _ => rfl⟩

/-! ### When the machine stops -/

/-- The operation answers, or the machine stops during a computation on a track that no accepted
RESET leaves. -/
def State.AnswersOrStops (s : State) (o : Host.Outcome State Fault Refusal) : Prop :=
  (∃ u, o = .next u) ∨
    ∃ f, o = .fault f ∧ s.commitEnabled = true ∧ ∃ k ∈ s.tracks, k.StopsWith f

theorem State.halted_answersOrStops {s : State} {k : Track} {d : Halt} (i : TrackId) (pos : Word16)
    (hen : s.commitEnabled = true) (hk : k ∈ s.tracks) (hd : k.HaltsWith d) :
    s.AnswersOrStops (s.halted i pos d) := by
  cases d with
  | raised c => exact .inl ⟨_, rfl⟩
  | stuck f => exact .inr ⟨f, rfl, hen, k, hk, hd⟩

theorem State.onTrack_answersOrStops {s : State} {i : TrackId} {taken : Track → Bool}
    {f : Track → Except Halt (Track × Sample)} (hf : ∀ k d, f k = .error d → k.HaltsWith d) :
    s.AnswersOrStops (s.onTrack i taken f) := by
  obtain e | ⟨k, r, -, -, -, e⟩ | ⟨k, d, ⟨hen, hk⟩, -, hd, e⟩ := s.onTrack_cases i taken f <;>
    rw [e]
  · exact .inl ⟨_, rfl⟩
  · exact .inl ⟨_, rfl⟩
  · exact State.halted_answersOrStops i k.pos hen (List.mem_of_getElem? hk) (hf k d hd)

theorem execComputeCommit_answersOrStops (s : State) :
    s.AnswersOrStops (execComputeCommit s) := by
  obtain ⟨-, e⟩ | ⟨-, rs, -, e⟩ | ⟨hen, j, k, d, hk, hd, e⟩ := execComputeCommit_cases s <;> rw [e]
  · exact .inl ⟨_, rfl⟩
  · exact .inl ⟨_, rfl⟩
  · exact State.halted_answersOrStops _ k.pos hen (List.mem_of_getElem? hk) (seqStep_haltsWith hd)

theorem execMix_answersOrStops (s : State) : s.AnswersOrStops (execMix s) := by
  obtain ⟨-, e⟩ | ⟨-, rs, -, e⟩ | ⟨hen, j, k, d, hk, hd, e⟩ := execMix_cases s <;> rw [e]
  · exact .inl ⟨_, rfl⟩
  · exact .inl ⟨_, rfl⟩
  · exact State.halted_answersOrStops _ k.pos hen (List.mem_of_getElem? hk) (seqStep_haltsWith hd)

theorem exec_trackOperation_answersOrStops {x : Instr} {i : TrackId} (s : State)
    (hx : trackOperation x = some i) : s.AnswersOrStops (exec x s) := by
  obtain ⟨p, t, rfl⟩ | ⟨t, rfl⟩ | hg | rfl | rfl := trackOperation_cases hx
  · exact State.onTrack_answersOrStops fun k d => noteStep_haltsWith
  · exact State.onTrack_answersOrStops fun k d => restStep_haltsWith
  · obtain ⟨code, f, -, e⟩ := exec_generator s hg
    rw [e]
    exact State.onTrack_answersOrStops fun k d => nofun
  · exact State.onTrack_answersOrStops fun k d h =>
      produce_haltsWith (k₁ := { k with phase := 0, pos := 0, rem := 1 }) h rfl
  · exact State.onTrack_answersOrStops (f := fun k => .ok (endStopStep k)) fun k d => nofun

/-- No operation is refused, and only those that step a track can stop the machine. -/
theorem exec_answersOrStops (x : Instr) (s : State) : s.AnswersOrStops (exec x s) := by
  cases hx : trackOperation x with
  | some i => exact exec_trackOperation_answersOrStops s hx
  | none =>
    cases x with
    | mix => exact execMix_answersOrStops s
    | computeCommit => exact execComputeCommit_answersOrStops s
    | tick => exact .inl ⟨_, rfl⟩
    | computeStart => exact .inl ⟨_, rfl⟩
    | trackInit i c => exact .inl ⟨_, rfl⟩
    | reset => exact .inl ⟨_, rfl⟩
    | genReserved101 i => exact .inl ⟨_, rfl⟩
    | genReserved110 i => exact .inl ⟨_, rfl⟩
    | genReserved111 i => exact .inl ⟨_, rfl⟩
    | _ => cases hx

/-- Settles O57: an operation answers or stops as `Track.StopsWith` says. -/
theorem onlyImpossibleTracksStop : Obligations.OnlyImpossibleTracksStop := by
  intro x s
  obtain ⟨u, e⟩ | ⟨f, e, hen, hk⟩ := exec_answersOrStops x s <;> rw [e]
  · exact ⟨nofun, nofun⟩
  · refine ⟨nofun, fun f' hf => ?_⟩
    cases hf
    exact ⟨hen, hk⟩

end Sys2Proof.Machine
end

section
/-! PROOFS. The moves other than RESET: a recorded fault stays, the configuration stays, and the
lines the host presents are not read (spec/60_exceptions.md R221; spec/70_reset_and_hazards.md
R258). -/

namespace Sys2Proof.Machine

open Sys2Proof

/-! ### What a move does besides its operation, field by field -/

section

variable (s u : State) (e : Event)

@[simp] theorem State.settle_tracks : (s.settle e u).tracks = u.tracks := by rw [settle_frame]
@[simp] theorem State.settle_held : (s.settle e u).held = u.held := by rw [settle_frame]
@[simp] theorem State.settle_ready : (s.settle e u).ready = u.ready := by rw [settle_frame]
@[simp] theorem State.settle_busy : (s.settle e u).busy = u.busy := by rw [settle_frame]
@[simp] theorem State.settle_fault : (s.settle e u).fault = u.fault := by rw [settle_frame]
@[simp] theorem State.settle_cfgStatus : (s.settle e u).cfgStatus = u.cfgStatus := by
  rw [settle_frame]
@[simp] theorem State.settle_resetDone : (s.settle e u).resetDone = u.resetDone := by
  rw [settle_frame]
@[simp] theorem State.settle_cfg : (s.settle e u).cfg = u.cfg := by rw [settle_frame]
@[simp] theorem State.settle_dac : (s.settle e u).dac = u.dac := by rw [settle_frame]
@[simp] theorem State.settle_answers : (s.settle e u).answers = u.answers := by rw [settle_frame]

end

/-! ### The operations of the moves -/

/-- The operations a move other than `rst` can take (R15). -/
def IsMoveOperation (x : Instr) : Prop :=
  x = .tick ∨ x = .computeCommit ∨ x = .computeStart ∨ ∃ i c, x = .trackInit i c

theorem isMoveOperation_of_ne_rst {s : State} {e : Event} {x : Instr} (he : e ≠ .rst)
    (h : s.operation e = some x) : IsMoveOperation x := by
  obtain ⟨-, rfl⟩ | ⟨rfl, -⟩ | ⟨-, rfl, -⟩ | ⟨-, rfl, -⟩ | ⟨-, -, r, ws, -, rfl⟩ := operation_some h
  · exact .inl rfl
  · exact absurd rfl he
  · exact .inr (.inl rfl)
  · exact .inr (.inr (.inl rfl))
  · exact .inr (.inr (.inr ⟨_, _, rfl⟩))

/-- No move but `rst` writes the configuration (R258). -/
theorem exec_keeps_configuration {s u : State} {x : Instr} (hx : IsMoveOperation x)
    (h : exec x s = .next u) :
    u.cfg = s.cfg ∧ u.cfgStatus = s.cfgStatus ∧ u.resetDone = s.resetDone := by
  obtain rfl | rfl | rfl | ⟨i, c, rfl⟩ := hx
  · cases h; split_ifs <;> simp
  · obtain ⟨-, e⟩ | ⟨-, rs, -, e⟩ | ⟨-, j, k, d, -, -, e⟩ := execComputeCommit_cases s
    · cases e.symm.trans h; simp
    · cases e.symm.trans h; simp
    · obtain ⟨c, -, rfl⟩ := State.halted_next (e.symm.trans h)
      simp
  · cases h; split_ifs <;> simp
  · cases h; split_ifs <;> simp

/-- The first fault is kept until a RESET (R35). -/
theorem exec_keeps_fault {s u : State} {x : Instr} (hx : IsMoveOperation x)
    (hf : s.fault.code ≠ .none) (h : exec x s = .next u) : u.fault = s.fault := by
  obtain rfl | rfl | rfl | ⟨i, c, rfl⟩ := hx
  · cases h; split_ifs <;> simp
  · obtain ⟨-, e⟩ | ⟨-, rs, -, e⟩ | ⟨-, j, k, d, -, -, e⟩ := execComputeCommit_cases s
    · cases e.symm.trans h; rfl
    · cases e.symm.trans h; simp
    · obtain ⟨c, -, rfl⟩ := State.halted_next (e.symm.trans h)
      rw [State.takeFault_fault, if_neg hf]
  · cases h; split_ifs <;> simp
  · cases h; split_ifs <;> simp

/-- While the producer is idle and a fault stands, nothing starts or ends a computation (R193,
R221). -/
theorem exec_keeps_idle {s u : State} {x : Instr} (hx : IsMoveOperation x)
    (hf : s.fault.code ≠ .none) (hb : s.busy = false) (h : exec x s = .next u) :
    u.busy = false ∧ u.held = s.held := by
  obtain rfl | rfl | rfl | ⟨i, c, rfl⟩ := hx
  · cases h; split_ifs <;> simp [hb]
  · rw [exec_computeCommit_of_not_enabled (by simp [State.commitEnabled, hb])] at h
    cases h; exact ⟨hb, rfl⟩
  · rw [exec_computeStart_of_not_enabled (by simp [State.startEnabled, hf])] at h
    cases h; exact ⟨hb, rfl⟩
  · cases h; split_ifs <;> simp [hb]

/-- Settles O55: no operation of a move but `rst` overwrites a fault, and none starts a computation
while one stands. -/
theorem faultIsSticky : Obligations.FaultIsSticky := by
  intro s t hf he h
  obtain ⟨-, rfl⟩ | ⟨x, u, ho, hu, rfl⟩ := step_next h
  · exact ⟨by simp, fun hb => by simp [hb]⟩
  · have hx := isMoveOperation_of_ne_rst he ho
    exact ⟨by simpa using exec_keeps_fault hx hf hu,
      fun hb => by simpa using exec_keeps_idle hx hf hb hu⟩

/-! ### What the host presents -/

theorem State.takeFault_setPins (s : State) (p : Pins) (c : FaultCode) (i : TrackId)
    (pos : Word16) : (s.setPins p).takeFault c i pos = (s.takeFault c i pos).setPins p := by
  rw [State.takeFault, State.takeFault, State.setPins_fault]
  split_ifs <;> rfl

theorem State.commitEnabled_setPins (s : State) (p : Pins) :
    (s.setPins p).commitEnabled = s.commitEnabled :=
  rfl

theorem State.mixed_setPins (s : State) (p : Pins) : (s.setPins p).mixed = s.mixed :=
  rfl

/-- No operation of a move but `rst` reads the configuration ports (R258). -/
theorem exec_setPins {s u : State} {x : Instr} (p : Pins) (hx : IsMoveOperation x)
    (h : exec x s = .next u) : exec x (s.setPins p) = .next (u.setPins p) := by
  obtain rfl | rfl | rfl | ⟨i, c, rfl⟩ := hx
  · cases h
    change Host.Outcome.next (if s.live then _ else _) = _
    split_ifs <;> rfl
  · change execComputeCommit s = _ at h
    change execComputeCommit (s.setPins p) = _
    rw [execComputeCommit] at h ⊢
    rw [State.commitEnabled_setPins, State.mixed_setPins]
    split_ifs at h ⊢ with hen
    · cases hm : s.mixed with
      | ok q => simp only [hm] at h; cases h; rfl
      | error e =>
        simp only [hm] at h
        obtain ⟨c, hc, rfl⟩ := State.halted_next h
        simp only [hc, State.halted, State.takeFault_setPins]
    · cases h; rfl
  · cases h
    change Host.Outcome.next (if s.startEnabled then _ else _) = _
    split_ifs <;> rfl
  · cases h
    change Host.Outcome.next (if s.initEnabled then if s.initRefused i c then _ else _ else _) = _
    split_ifs <;> rfl

/-- The next move and its operation are chosen without the configuration ports. -/
theorem State.operation_nextEvent_setPins (s : State) (p : Pins) :
    (s.setPins p).operation (s.setPins p).nextEvent = s.operation s.nextEvent :=
  rfl

/-- Settles O53: the move takes the same operation whatever is presented, and that operation neither
writes the configuration nor reads the ports. -/
theorem configurationChangesOnlyAtReset : Obligations.ConfigurationChangesOnlyAtReset := by
  intro s t h he
  obtain ⟨ho, rfl⟩ | ⟨x, u, ho, hu, rfl⟩ := step_next h
  · refine ⟨by simp, by simp, by simp, fun p => ?_⟩
    have ho' := (s.operation_nextEvent_setPins p).trans ho
    exact ⟨_, step_of_no_operation ho', by simp⟩
  · have hx := isMoveOperation_of_ne_rst he ho
    obtain ⟨hcfg, hstatus, hreset⟩ := exec_keeps_configuration hx hu
    refine ⟨by simpa using hcfg, by simpa using hstatus, by simpa using hreset, fun p => ?_⟩
    have ho' := (s.operation_nextEvent_setPins p).trans ho
    exact ⟨_, step_of_operation ho' (exec_setPins p hx hu), by simp⟩

end Sys2Proof.Machine
end

section
/-! PROOFS. Steps and runs: a step is the operation of the next move, and what short runs and the
producer's turn in a fair run do (spec/00_scope.md R13, R15; spec/43_pipeline.md R193 to R200). -/

namespace Sys2Proof.Machine

open Sys2Proof

/-! ### One step -/

/-- The next move of `s` is `e`, and `es` and `n` are the schedule and the turn it leaves. -/
def State.NextMove (s : State) (e : Event) (es : List Event) (n : Nat) : Prop :=
  (s.schedule = e :: es ∧ n = s.turn) ∨
    (s.schedule = [] ∧ Config.freeMoves s.turn ++ [.produce] = e :: es ∧ n = s.turn + 1)

section

variable {s t : State} {e : Event} {es : List Event} {n : Nat}

theorem State.NextMove.moves (h : s.NextMove e es n) : s.moves = e :: es := by
  obtain ⟨hs, -⟩ | ⟨hs, hm, -⟩ := h
  · exact State.moves_cons hs
  · exact (State.moves_nil hs).trans hm

theorem State.NextMove.nextEvent (h : s.NextMove e es n) : s.nextEvent = e := by
  rw [State.nextEvent, h.moves, List.headD_cons]

theorem State.NextMove.popEvent (h : s.NextMove e es n) :
    s.popEvent = { s with schedule := es, turn := n } := by
  rw [State.popEvent, h.moves]
  obtain ⟨hs, rfl⟩ | ⟨hs, -, rfl⟩ := h <;> simp [hs]

/-- No operation touches the moves ahead. -/
theorem State.NextMove.of_exec {x : Instr} (h : s.NextMove e es n) (hx : exec x s = .next t) :
    t.NextMove e es n := by
  obtain ⟨hschedule, hturn⟩ := exec_schedule hx
  rwa [State.NextMove, hschedule, hturn]

end

/-- No operation of a move touches the waiting requests; the move itself takes one off. -/
theorem exec_waiting {s t : State} {e : Event} {x : Instr} (ho : s.operation e = some x)
    (h : exec x s = .next t) : t.waiting = s.waiting := by
  obtain ⟨-, rfl⟩ | ⟨-, rfl⟩ | ⟨-, rfl, -⟩ | ⟨-, rfl, -⟩ | ⟨-, -, r, ws, -, rfl⟩ :=
    operation_some ho
  · cases h; split_ifs <;> simp
  · cases h; rfl
  · obtain ⟨-, e⟩ | ⟨-, rs, -, e⟩ | ⟨-, j, k, d, -, -, e⟩ := execComputeCommit_cases s
    · cases e.symm.trans h; rfl
    · cases e.symm.trans h; simp
    · obtain ⟨c, -, rfl⟩ := State.halted_next (e.symm.trans h)
      simp
  · cases h; split_ifs <;> simp
  · cases h; split_ifs <;> simp

/-- Beside its operation, a move takes a served request off the queue and does nothing else. -/
theorem settle_of_operation {s u : State} {e : Event} {x : Instr} (ho : s.operation e = some x)
    (hu : u.waiting = s.waiting) :
    s.settle e u = { u with waiting := if e = .serve then s.waiting.tail else s.waiting } := by
  obtain ⟨rfl, -⟩ | ⟨rfl, -⟩ | ⟨rfl, -⟩ | ⟨rfl, -⟩ | ⟨rfl, hen, -⟩ := operation_some ho
  · rw [if_neg (by decide), ← hu]; rfl
  · rw [if_neg (by decide), ← hu]; rfl
  · rw [if_neg (by decide), ← hu]; rfl
  · rw [if_neg (by decide), ← hu]; rfl
  · rw [State.settle, if_pos hen, if_pos rfl, hu]

/-- A turn that takes no operation changes nothing. -/
theorem settle_of_no_operation {s u : State} {e : Event} (he : e = .produce ∨ e = .serve)
    (ho : s.operation e = none) (hu : u.waiting = s.waiting) : s.settle e u = u := by
  obtain rfl | rfl := he
  · rfl
  · cases hw : s.waiting with
    | nil =>
      have hu' : u = { u with waiting := [] } := by rw [← hw, ← hu]
      rw [State.settle, hu, hw, List.tail_nil, ← hu', ite_self]
    | cons r ws =>
      simp only [State.operation, hw] at ho
      split_ifs at ho with hen
      rw [State.settle, if_neg hen]

/-- A move that takes an operation. -/
theorem step_of_nextMove {s t : State} {e : Event} {es : List Event} {n : Nat} {x : Instr}
    (hm : s.NextMove e es n) (ho : s.operation e = some x) (h : exec x s = .next t) :
    step s = .next { t with
      schedule := es, turn := n,
      waiting := if e = .serve then s.waiting.tail else s.waiting } := by
  have ho' : s.operation s.nextEvent = some x := by rwa [hm.nextEvent]
  have hw : t.waiting = s.waiting := exec_waiting ho h
  rw [step_of_operation ho' h, hm.nextEvent, (hm.of_exec h).popEvent,
    settle_of_operation (u := { t with schedule := es, turn := n }) ho hw]

/-- A move that takes none. -/
theorem step_of_idle_nextMove {s : State} {e : Event} {es : List Event} {n : Nat}
    (hm : s.NextMove e es n) (ho : s.operation e = none) :
    step s = .next (s.settle e { s with schedule := es, turn := n }) := by
  rw [step_of_no_operation (by rwa [hm.nextEvent]), hm.nextEvent, hm.popEvent]

/-- Settles O50: the next move's operation is run and the move is used up. -/
theorem stepRunsTheScheduledOperation : Obligations.StepRunsTheScheduledOperation := by
  intro s e es n hm
  change s.NextMove e es n at hm
  refine ⟨fun x t ho h => step_of_nextMove hm ho h, fun x f ho h => ?_, ?_, ?_, fun he ho => ?_⟩
  · simp only [step, hm.nextEvent, ho, h]
  · rintro g ts rfl
    exact step_of_idle_nextMove hm rfl
  · rintro i c rfl
    exact step_of_idle_nextMove hm rfl
  · rw [step_of_idle_nextMove hm ho,
      settle_of_no_operation (u := { s with schedule := es, turn := n }) he ho rfl]

/-- Settles O43: a refusal only answers; a request held off is left by exec and by its own turn. -/
theorem trackInitRefusesOrWaits : Obligations.TrackInitRefusesOrWaits := by
  intro s i c
  refine ⟨fun hreset haccepted hbusy h => ?refused, fun hbusy => ?held, fun hbusy es hs _ => ?turn⟩
  case refused =>
    have hen := State.initEnabled_iff.mpr ⟨State.live_iff.mpr ⟨hreset, haccepted⟩, hbusy⟩
    exact exec_trackInit_of_refused hen (State.initRefused_iff.mpr h)
  case held => exact exec_trackInit_of_not_enabled (State.initEnabled_of_busy hbusy) i c
  case turn =>
    have ho := State.operation_serve_of_busy hbusy
    rw [step_of_idle_nextMove (.inl ⟨hs, rfl⟩) ho,
      settle_of_no_operation (u := { s with schedule := es, turn := s.turn }) (.inr rfl) ho rfl]

/-! ### Runs of a few steps -/

theorem run_succ {s t : State} (h : step s = .next t) (n : Nat) :
    Host.Core.run core (n + 1) s = Host.Core.run core n t := by
  have hstep : core.step s = .next t := h
  simp only [Host.Core.run, hstep]

/-- A run that answers took a first step that answers. -/
theorem run_succ_inv {s t : State} {n : Nat} (h : Host.Core.run core (n + 1) s = .next t) :
    ∃ u, step s = .next u ∧ Host.Core.run core n u = .next t := by
  simp only [Host.Core.run] at h
  split at h
  · next u hu => exact ⟨u, hu, h⟩
  · cases h
  · cases h

/-- The step of a scheduled move other than `serve`. -/
theorem step_of_cons {s t : State} {e : Event} {es : List Event} {x : Instr}
    (hs : s.schedule = e :: es) (he : e ≠ .serve) (ho : s.operation e = some x)
    (h : exec x s = .next t) : step s = .next { t with schedule := es } := by
  rw [step_of_nextMove (.inl ⟨hs, rfl⟩) ho h, if_neg he, ← exec_waiting ho h,
    ← (exec_schedule h).2]

theorem State.operation_produce_of_commitEnabled {s : State} (h : s.commitEnabled = true) :
    s.operation .produce = some .computeCommit := by
  simp [State.operation, h]

theorem State.operation_produce_of_startEnabled {s : State} (h : s.startEnabled = true) :
    s.operation .produce = some .computeStart := by
  obtain ⟨-, -, hbusy, -⟩ := State.startEnabled_iff.mp h
  simp [State.operation, h, State.commitEnabled, hbusy]

/-- A scheduled TICK of a live block (R191). -/
theorem step_tick {s : State} {es : List Event} (hs : s.schedule = .tick :: es)
    (hl : s.live = true) :
    step s = .next { (s.dacWrite s.held).setReady true with schedule := es } :=
  step_of_cons hs (by decide) rfl (exec_tick_of_live hl)

/-- A scheduled turn of the producer that starts a computation (R193). -/
theorem step_computeStart {s : State} {es : List Event} (hs : s.schedule = .produce :: es)
    (hen : s.startEnabled = true) : step s = .next { s.setBusy true with schedule := es } :=
  step_of_cons hs (by decide) (State.operation_produce_of_startEnabled hen)
    (exec_computeStart_of_enabled hen)

/-- A scheduled turn of the producer that ends a computation (R194). -/
theorem step_computeCommit {s : State} {es : List Event} {rs : List (Track × Sample)}
    (hs : s.schedule = .produce :: es) (hen : s.commitEnabled = true)
    (hrs : s.tracks.map (seqStep s.rom s.cfg) = rs.map .ok) :
    step s = .next { (((s.setTracks (rs.map Prod.fst)).setHeld
      (rebias (rs.map fun r => mixTerm s.cfg.attenExp r.2).sum)).setReady false).setBusy false with
        schedule := es } :=
  step_of_cons hs (by decide) (State.operation_produce_of_commitEnabled hen)
    (exec_computeCommit_of_results hen hrs)

/-- Settles O48: the COMMIT that ends the computation clears READY, and with it the request. -/
theorem tickDuringComputationIsLost : Obligations.TickDuringComputationIsLost := by
  intro s t es hreset haccepted hbusy hfault hs hrun ht
  have hl : s.live = true := State.live_iff.mpr ⟨hreset, haccepted⟩
  rw [run_succ (step_tick hs hl)] at hrun
  obtain ⟨u, hu, hrun'⟩ := run_succ_inv hrun
  cases hrun'
  have hen : State.commitEnabled
      { (s.dacWrite s.held).setReady true with schedule := .produce :: es } = true :=
    State.commitEnabled_iff.mpr ⟨hl, hbusy⟩
  obtain ⟨ho, -⟩ | ⟨x, v, ho, hv, rfl⟩ := step_next hu
  · cases (State.operation_produce_of_commitEnabled hen).symm.trans ho
  · cases (State.operation_produce_of_commitEnabled hen).symm.trans ho
    obtain ⟨rs, -, rfl⟩ := results_of_exec_computeCommit hen hv (by simpa using ht)
    refine ⟨by simp, by simp, by simp, fun hinv => ?_⟩
    obtain ⟨-, -, hready, hdac⟩ := (State.inv_iff_of_live hl).mp hinv
    exact hdac (hready hbusy).1

/-- Settles O49: the four moves in order; the second TICK writes what the COMMIT stored. -/
theorem eagerRoundHasOneSampleOfLatency : Obligations.EagerRoundHasOneSampleOfLatency := by
  intro s es rs hreset haccepted hbusy hfault hs hrs
  have hl : s.live = true := State.live_iff.mpr ⟨hreset, haccepted⟩
  refine ⟨_, (run_succ (step_tick hs hl) 3).trans <|
    (run_succ (step_computeStart rfl ?start) 2).trans <|
    (run_succ (step_computeCommit rfl ?commit ?results) 1).trans <|
    run_succ (step_tick rfl ?live) 0, rfl, ?dac⟩
  case start => exact State.startEnabled_iff.mpr ⟨hl, rfl, hbusy, hfault⟩
  case commit => exact State.commitEnabled_iff.mpr ⟨hl, rfl⟩
  case results => exact hrs
  case live => exact hl
  case dac => exact List.append_assoc s.dac [s.held] [_]

/-! ### The run of the machine from a state of the invariant -/

/-- The state after `n` steps; a state whose step does not answer is kept. -/
def runFrom (s : State) : Nat → State
  | 0 => s
  | n + 1 =>
    match step (runFrom s n) with
    | .next t => t
    | .fault _ => runFrom s n
    | .refused _ => runFrom s n

theorem runFrom_inv {s : State} (hs : s.Inv) (n : Nat) :
    (runFrom s n).Inv ∧ step (runFrom s n) = .next (runFrom s (n + 1)) := by
  have answers : ∀ m, (runFrom s m).Inv → step (runFrom s m) = .next (runFrom s (m + 1)) := by
    intro m hm
    obtain ⟨t, ht⟩ := invariantStatesNeverStop (runFrom s m) hm
    rw [ht, runFrom, ht]
  induction n with
  | zero => exact ⟨hs, answers 0 hs⟩
  | succ n ih =>
    have hn := everyStepKeepsTheInvariant _ _ ih.1 ih.2
    exact ⟨hn, answers (n + 1) hn⟩

theorem runFrom_isRun {s : State} (hs : s.Inv) : IsRun (runFrom s) :=
  fun n => (runFrom_inv hs n).2

theorem run_eq_of_isRun {σ : Nat → State} (h : IsRun σ) (n m : Nat) :
    Host.Core.run core n (σ m) = .next (σ (m + n)) := by
  induction n generalizing m with
  | zero => rfl
  | succ n ih => rw [run_succ (h m), ih (m + 1), Nat.add_right_comm, Nat.add_assoc]

/-! ### What every step keeps of a live block -/

theorem step_resetDone {s t : State} (h : step s = .next t) (hs : s.resetDone = true) :
    t.resetDone = true := by
  obtain ⟨-, rfl⟩ | ⟨x, u, ho, hu, rfl⟩ := step_next h
  · simpa using hs
  · by_cases he : s.nextEvent = .rst
    · rw [he] at ho
      cases ho
      cases hu
      simp [State.doReset]
    · obtain ⟨-, -, hr⟩ := exec_keeps_configuration (isMoveOperation_of_ne_rst he ho) hu
      simp [hr, hs]

/-- A COMMIT ends the computation, with the mix or with a fault (R194). -/
theorem busy_of_exec_computeCommit {s u : State} (hen : s.commitEnabled = true)
    (h : exec .computeCommit s = .next u) : u.busy = false := by
  change execComputeCommit s = _ at h
  obtain ⟨hno, -⟩ | ⟨-, rs, -, e⟩ | ⟨-, j, k, d, -, -, e⟩ := execComputeCommit_cases s
  · simp [hen] at hno
  · cases e.symm.trans h; rfl
  · obtain ⟨c, -, rfl⟩ := State.halted_next (e.symm.trans h)
    simp

/-- The state after a turn that takes the operation `x`. -/
theorem exec_of_step {s t : State} {x : Instr} (ho : s.operation s.nextEvent = some x)
    (h : step s = .next t) : ∃ u, exec x s = .next u ∧ t = s.settle s.nextEvent u.popEvent := by
  obtain ⟨hno, -⟩ | ⟨y, u, hy, hu, e⟩ := step_next h
  · cases hno.symm.trans ho
  · cases hy.symm.trans ho
    exact ⟨u, hu, e⟩

/-- A computation in progress does not stand for ever: if it did, the producer's turn would COMMIT
(R196). -/
theorem commit_comes {s : State} (hs : s.Inv) (hen : s.commitEnabled = true) :
    ∃ n, (runFrom s n).busy = false := by
  by_contra hno
  simp only [not_exists, Bool.not_eq_false] at hno
  have hreset : ∀ n, (runFrom s n).resetDone = true := by
    intro n
    induction n with
    | zero => exact (State.live_iff.mp (State.commitEnabled_iff.mp hen).1).1
    | succ n ih => exact step_resetDone (runFrom_isRun hs n) ih
  have hstays : ∀ n, (runFrom s n).commitEnabled = true := by
    intro n
    obtain ⟨-, hrest⟩ := (runFrom_inv hs n).1
    obtain ⟨-, -, -, hrefused⟩ := hrest (hreset n)
    have haccepted : (runFrom s n).cfgStatus = .accepted := by
      by_contra hne
      obtain ⟨-, -, hbusy, -⟩ := hrefused hne
      cases hbusy.symm.trans (hno n)
    exact State.commitEnabled_iff.mpr ⟨State.live_iff.mpr ⟨hreset n, haccepted⟩, hno n⟩
  obtain ⟨m, -, -, hop⟩ := (runFrom_isRun hs).weaklyFair .computeCommit 0
    fun m _ => State.operation_produce_of_commitEnabled (hstays m)
  obtain ⟨u, hu, hnext⟩ := exec_of_step hop (runFrom_isRun hs m)
  have hbusy := busy_of_exec_computeCommit (hstays m) hu
  have hcontra := hno (m + 1)
  rw [hnext, State.settle_busy, State.popEvent_busy, hbusy] at hcontra
  cases hcontra

/-- An enabled COMPUTE_START does not stand for ever: if it did, the producer's turn would take it
(R196). -/
theorem start_comes {s : State} (hs : s.Inv) : ∃ n, (runFrom s n).startEnabled = false := by
  by_contra hno
  simp only [not_exists, Bool.not_eq_false] at hno
  obtain ⟨m, -, -, hop⟩ := (runFrom_isRun hs).weaklyFair .computeStart 0
    fun m _ => State.operation_produce_of_startEnabled (hno m)
  obtain ⟨u, hu, hnext⟩ := exec_of_step hop (runFrom_isRun hs m)
  cases (exec_computeStart_of_enabled (hno m)).symm.trans hu
  obtain ⟨-, -, hbusy, -⟩ := State.startEnabled_iff.mp (hno (m + 1))
  rw [hnext] at hbusy
  simp at hbusy

/-- Settles O51: the operations by the enabling conditions, and the producer's progress by the
weak fairness of every run. -/
theorem agentsTakeTheirOperations : Obligations.AgentsTakeTheirOperations := by
  intro s
  refine ⟨rfl, rfl, fun hl hb => ?commit, fun hl hb hr hf => ?start, fun hb h => ?idle,
    fun i c ws hl hb hw => ?serve, fun hs hen => ?commits, fun hs _ => ?starts⟩
  case commit =>
    exact State.operation_produce_of_commitEnabled (State.commitEnabled_iff.mpr ⟨hl, hb⟩)
  case start =>
    exact State.operation_produce_of_startEnabled (State.startEnabled_iff.mpr ⟨hl, hr, hb, hf⟩)
  case idle =>
    obtain hr | hf := h
    · simp [State.operation, State.commitEnabled, State.startEnabled, hb, hr]
    · simp [State.operation, State.commitEnabled, State.startEnabled, hb, hf]
  case serve => simp [State.operation, hw, State.initEnabled_iff.mpr ⟨hl, hb⟩]
  case commits =>
    obtain ⟨n, hn⟩ := commit_comes hs hen
    exact ⟨n, _, run_eq_of_isRun (runFrom_isRun hs) n 0, by rwa [Nat.zero_add]⟩
  case starts =>
    obtain ⟨n, hn⟩ := start_comes hs
    exact ⟨n, _, run_eq_of_isRun (runFrom_isRun hs) n 0, by rwa [Nat.zero_add]⟩

end Sys2Proof.Machine
end

section
/-! PROOFS. The triangle's corner cases, the LFSR and the noise step (spec/40_generators.md R110,
R115, R118 to R122). -/

namespace Sys2Proof.Machine

open Sys2Proof

/-! ### The triangle -/

theorem triSample_of_lt {a : Word16} (h : a.toNat < 0x8000) :
    triSample a = BitVec.ofNat 8 (2 * a.toNat / 256) := by
  rw [triSample, if_pos h, Nat.mul_comm]

/-- In the upper half the formula takes the distance from the next phase 0. -/
theorem triSample_of_le {a b : Word16} (h : 0x8000 ≤ b.toNat) (hab : a.toNat + b.toNat = 65536) :
    triSample b = BitVec.ofNat 8 (2 * a.toNat / 256) := by
  have hdist : 65536 - 2 * (b.toNat - 32768) = 2 * a.toNat := by omega
  rw [triSample, if_neg (by omega), hdist]

/-- Settles O8: both halves of the formula take twice the distance from phase 0. -/
theorem triangleIsSymmetric : Obligations.TriangleIsSymmetric := by
  refine ⟨fun a h1 h2 => ?_, by decide⟩
  have hmirror : (BitVec.ofNat 16 (65536 - a.toNat)).toNat = 65536 - a.toNat :=
    (BitVec.toNat_ofNat _ 16).trans (Nat.mod_eq_of_lt (by omega))
  rw [triSample_of_lt (by omega), triSample_of_le (a := a) (by omega) (by omega)]
  exact ⟨rfl, (BitVec.toNat_ofNat _ 8).trans (Nat.mod_eq_of_lt (by omega))⟩

/-! ### The LFSR, bit by bit -/

/-- Settles O12: the two laws of one iteration; eight of them are a clock. -/
theorem lfsrShiftsTapsIn : Obligations.LfsrShiftsTapsIn := by
  intro x a b
  exact ⟨lfsrShift_getLsbD_zero x a b, fun j hj => lfsrShift_getLsbD_succ x a b hj, rfl⟩

/-- With bits 14 to 0 clear, only zeros enter. -/
theorem lfsrShift_of_not_alive {x : Word16} {b : Nat} (hb : b < 15) (h : ¬ lfsrAlive x) :
    lfsrShift x 14 b = 0 := by
  have hclear : ∀ j, j < 15 → x.getLsbD j = false := fun j hj =>
    Bool.eq_false_iff.mpr fun hx => h (lfsrAlive_iff.mpr ⟨j, hj, hx⟩)
  refine BitVec.eq_of_getLsbD_eq fun i hi => ?_
  cases i with
  | zero => rw [lfsrShift_getLsbD_zero, hclear 14 (by omega), hclear b hb]; rfl
  | succ j => rw [lfsrShift_getLsbD_succ x 14 b (by omega), hclear j (by omega)]; simp

theorem not_lfsrAlive_zero : ¬ lfsrAlive 0 := by decide

theorem lfsrIterate_zero_word {b : Nat} (hb : b < 15) (n : Nat) : lfsrIterate 14 b n 0 = 0 := by
  induction n with
  | zero => rfl
  | succ n ih => rw [lfsrIterate, lfsrShift_of_not_alive hb not_lfsrAlive_zero, ih]

/-- Settles O13: a set bit among 14 to 0 stays among them or enters again; with none, the register
empties. -/
theorem lfsrNeverLocksWhenAlive : Obligations.LfsrNeverLocksWhenAlive := by
  intro x b hb
  have hb' : b < 14 := by omega
  refine ⟨lfsrAlive_lfsrClock hb', fun h => ?_⟩
  rw [lfsrClock, lfsrIterate, lfsrShift_of_not_alive (by omega) h,
    lfsrIterate_zero_word (by omega)]

/-! ### The period of the NOISE93 LFSR -/

theorem lfsrIterate_add (a b m n : Nat) (x : Word16) :
    lfsrIterate a b (m + n) x = lfsrIterate a b n (lfsrIterate a b m x) := by
  induction m generalizing x with
  | zero => rw [Nat.zero_add]; rfl
  | succ m ih => rw [Nat.add_right_comm, lfsrIterate, ih]; rfl

theorem lfsrIterate_succ (a b n : Nat) (x : Word16) :
    lfsrIterate a b (n + 1) x = lfsrShift (lfsrIterate a b n x) a b :=
  lfsrIterate_add a b n 1 x

theorem lfsrClocks_eq (a b n : Nat) (x : Word16) :
    lfsrClocks a b n x = lfsrIterate a b (n * 8) x := by
  induction n generalizing x with
  | zero => rfl
  | succ n ih => rw [lfsrClocks, ih, lfsrClock, Nat.succ_mul, Nat.add_comm, lfsrIterate_add]

/-- Over `n` iterations a bit moves up by `n` places. -/
theorem lfsrIterate_getLsbD (a b : Nat) {n j : Nat} (h : j + n ≤ 15) (x : Word16) :
    (lfsrIterate a b n x).getLsbD (j + n) = x.getLsbD j := by
  induction n with
  | zero => rfl
  | succ n ih =>
    rw [lfsrIterate_succ, ← Nat.add_assoc, lfsrShift_getLsbD_succ _ a b (by omega), ih (by omega)]

/-- The bits 8 that enter at bit 0 are the word six iterations on: the feedback polynomial is
z^15 + z^6 + 1. It holds from the first iteration on, when bit 15 has come from bit 14. -/
theorem lfsrIterate_fifteen (x : Word16) :
    lfsrIterate 14 8 15 (lfsrShift x 14 8) =
      lfsrIterate 14 8 6 (lfsrShift x 14 8) ^^^ lfsrShift x 14 8 := by
  refine BitVec.eq_of_getLsbD_eq fun i hi => ?_
  rw [BitVec.getLsbD_xor]
  generalize hy : lfsrShift x 14 8 = y
  obtain hi15 | rfl : i < 15 ∨ i = 15 := by omega
  · have htop : (lfsrIterate 14 8 15 y).getLsbD i =
        ((lfsrIterate 14 8 (14 - i) y).getLsbD 14 ^^ (lfsrIterate 14 8 (14 - i) y).getLsbD 8) := by
      rw [← lfsrShift_getLsbD_zero, ← lfsrIterate_succ,
        ← lfsrIterate_getLsbD 14 8 (n := i) (j := 0) (by omega), ← lfsrIterate_add]
      congr 2 <;> omega
    have hself : (lfsrIterate 14 8 (14 - i) y).getLsbD 14 = y.getLsbD i := by
      have h := lfsrIterate_getLsbD 14 8 (n := 14 - i) (j := i) (by omega) y
      rwa [show i + (14 - i) = 14 by omega] at h
    have htap : (lfsrIterate 14 8 (14 - i) y).getLsbD 8 = (lfsrIterate 14 8 6 y).getLsbD i := by
      obtain hle | hlt : i ≤ 8 ∨ 8 < i := by omega
      · have h := lfsrIterate_getLsbD 14 8 (n := 8 - i) (j := i) (by omega) (lfsrIterate 14 8 6 y)
        rwa [← lfsrIterate_add, show i + (8 - i) = 8 by omega,
          show 6 + (8 - i) = 14 - i by omega] at h
      · have h := lfsrIterate_getLsbD 14 8 (n := i - 8) (j := 8) (by omega)
          (lfsrIterate 14 8 (14 - i) y)
        rw [← lfsrIterate_add, show 8 + (i - 8) = i by omega,
          show 14 - i + (i - 8) = 6 by omega] at h
        exact h.symm
    rw [htop, hself, htap, Bool.xor_comm]
  · have h15 := lfsrIterate_getLsbD 14 8 (n := 15) (j := 0) (by omega) y
    have h6 := lfsrIterate_getLsbD 14 8 (n := 6) (j := 9) (by omega) y
    rw [h15, h6, ← hy, lfsrShift_getLsbD_zero, lfsrShift_getLsbD_succ x 14 8 (j := 8) (by omega),
      lfsrShift_getLsbD_succ x 14 8 (j := 14) (by omega), Bool.xor_comm]

/-- The feedback polynomial's square is again of three terms. -/
theorem recurrence_double {w : Nat → Word16} {a b : Nat}
    (h : ∀ n, w (n + a) = w (n + b) ^^^ w n) (n : Nat) :
    w (n + (a + a)) = w (n + (b + b)) ^^^ w n := by
  have hab : w (n + a + b) = w (n + b + b) ^^^ w (n + b) := by
    rw [Nat.add_right_comm]; exact h (n + b)
  calc
    w (n + (a + a)) = w (n + a + b) ^^^ w (n + a) := by rw [← Nat.add_assoc, h (n + a)]
    _ = (w (n + b + b) ^^^ w (n + b)) ^^^ (w (n + b) ^^^ w n) := by rw [hab, h n]
    _ = w (n + (b + b)) ^^^ w n := by
      rw [BitVec.xor_assoc, ← BitVec.xor_assoc (w (n + b)), BitVec.xor_self, BitVec.zero_xor,
        Nat.add_assoc]

/-- Words that follow z^15 + z^6 + 1 repeat every 93: the polynomial divides z^93 + 1. -/
theorem recurrence_period {w : Nat → Word16} (h : ∀ n, w (n + 15) = w (n + 6) ^^^ w n) :
    Function.Periodic w 93 := by
  intro n
  have h30 := recurrence_double h
  have h60 := recurrence_double h30
  calc
    w (n + 93) = w (n + 57) ^^^ w (n + 33) := h60 (n + 33)
    _ = (w (n + 39) ^^^ w (n + 27)) ^^^ (w (n + 15) ^^^ w (n + 3)) := by
      rw [h30 (n + 27), h30 (n + 3)]
    _ = ((w (n + 21) ^^^ w (n + 9)) ^^^ (w (n + 18) ^^^ w (n + 12))) ^^^
        ((w (n + 6) ^^^ w n) ^^^ w (n + 3)) := by rw [h30 (n + 9), h (n + 12), h n]
    _ = (((w (n + 12) ^^^ w (n + 6)) ^^^ w (n + 9)) ^^^
        ((w (n + 9) ^^^ w (n + 3)) ^^^ w (n + 12))) ^^^ ((w (n + 6) ^^^ w n) ^^^ w (n + 3)) := by
      rw [h (n + 6), h (n + 3)]
    _ = w n := by
      refine BitVec.eq_of_getLsbD_eq fun i _ => ?_
      simp only [BitVec.getLsbD_xor]
      generalize (w (n + 12)).getLsbD i = b12, (w (n + 9)).getLsbD i = b9,
        (w (n + 6)).getLsbD i = b6, (w (n + 3)).getLsbD i = b3, (w n).getLsbD i = b0
      revert b12 b9 b6 b3 b0
      decide

/-- Settles O14: 93 iterations repeat the word from the first iteration on, and 93 clocks are 8
times as many. -/
theorem noise93LfsrRepeatsEvery93Clocks : Obligations.Noise93LfsrRepeatsEvery93Clocks := by
  intro x n hn
  have hperiod : Function.Periodic (fun m => lfsrIterate 14 8 (m + 1) x) 93 :=
    recurrence_period fun m => by
      have h := lfsrIterate_fifteen (lfsrIterate 14 8 m x)
      rwa [← lfsrIterate_succ, ← lfsrIterate_add, ← lfsrIterate_add, Nat.add_right_comm m 1,
        Nat.add_right_comm m 1] at h
  have hclocks := hperiod.nat_mul 8 (n * 8 - 1)
  rw [lfsrClocks_eq, lfsrClocks_eq]
  convert hclocks using 2 <;> push_cast <;> omega

/-! ### The noise step -/

theorem lowByte_eq (x : Word16) : x.extractLsb' 0 8 = x.setWidth 8 :=
  BitVec.eq_of_toNat_eq (by simp)

/-- NOISE_STEP with the counter read as a number modulo 2^16 (R118). -/
theorem noiseStep_eq (rom : Rom) (a b : Nat) (k : Track) :
    noiseStep rom a b k =
      if (noiseThreshold rom k.currentNote).toNat < (k.phase.toNat + 1) % 65536 then
        ({ k with noise := lfsrClock k.noise a b, phase := 0 }, (lfsrClock k.noise a b).setWidth 8)
      else ({ k with phase := BitVec.ofNat 16 (k.phase.toNat + 1) }, k.noise.setWidth 8) := by
  have hcount : k.phase + 1 = BitVec.ofNat 16 (k.phase.toNat + 1) := by
    rw [BitVec.ofNat_add, BitVec.ofNat_toNat, BitVec.setWidth_eq]; rfl
  simp only [noiseStep, lowByte_eq, hcount, BitVec.lt_def, BitVec.toNat_ofNat, Nat.reducePow]

/-- Settles O10: an invoked NOISE93 is the noise step with taps 14 and 8. -/
theorem noise93CountsThenClocks : Obligations.Noise93CountsThenClocks := by
  intro s i k h ha hinc hg
  have hstep : exec (.noise93 i) s = .next (s.put i (noise93Step s.rom k)) :=
    State.onTrack_generates (noise93Step s.rom) h ha hinc hg
  rw [hstep, noise93Step, noiseStep_eq]
  rfl

/-- Settles O11: an invoked NOISE32K is the noise step with taps 14 and 13. -/
theorem noise32kCountsThenClocks : Obligations.Noise32kCountsThenClocks := by
  intro s i k h ha hinc hg
  have hstep : exec (.noise32k i) s = .next (s.put i (noise32kStep s.rom k)) :=
    State.onTrack_generates (noise32kStep s.rom) h ha hinc hg
  rw [hstep, noise32kStep, noiseStep_eq]
  rfl

/-! ### Calls of a noise generator -/

/-- The last of `n + 1` calls is made on what `n` calls left. -/
theorem playNoise_succ (rom : Rom) (a b n : Nat) (k : Track) :
    playNoise rom a b (n + 1) k =
      ((noiseStep rom a b (playNoise rom a b n k).1).1,
        (playNoise rom a b n k).2 ++ [(noiseStep rom a b (playNoise rom a b n k).1).2]) := by
  induction n generalizing k with
  | zero => rfl
  | succ n ih => rw [playNoise, ih]; rfl

section

variable {rom : Rom} {a b : Nat} {k : Track} {T : Nat}

/-- Below the threshold the calls only count (R118). -/
theorem playNoise_of_le (hT : (noiseThreshold rom k.currentNote).toNat = T) (hmax : T < 65535)
    (hk : k.phase = 0) {n : Nat} (hn : n ≤ T) :
    playNoise rom a b n k =
      ({ k with phase := BitVec.ofNat 16 n }, List.replicate n (k.noise.setWidth 8)) := by
  induction n with
  | zero =>
    have hself : { k with phase := BitVec.ofNat 16 0 } = k := by
      rw [show BitVec.ofNat 16 0 = k.phase from hk.symm]
    rw [hself]
    rfl
  | succ n ih =>
    have hcount : (BitVec.ofNat 16 n).toNat = n :=
      (BitVec.toNat_ofNat n 16).trans (Nat.mod_eq_of_lt (by omega))
    rw [playNoise_succ, ih (by omega), noiseStep_eq, if_neg, List.replicate_succ']
    · rw [hcount]
    · rw [hT, hcount]
      omega

end

/-- Settles O15: T calls count up to the threshold, and the next one exceeds it. -/
theorem noiseHoldsForThresholdCalls : Obligations.NoiseHoldsForThresholdCalls := by
  intro rom a b k T hT hmax hk
  refine ⟨fun n hn => playNoise_of_le hT hmax hk hn, ?_⟩
  have hcount : (BitVec.ofNat 16 T).toNat = T :=
    (BitVec.toNat_ofNat T 16).trans (Nat.mod_eq_of_lt (by omega))
  rw [playNoise_succ, playNoise_of_le hT hmax hk le_rfl, noiseStep_eq, if_pos]
  rw [hT, hcount]
  omega

/-- A noise step reads no FREQ_INC and carries it along (R122). -/
theorem noiseStep_freqInc (rom : Rom) (a b : Nat) (k : Track) (f : Word16) :
    noiseStep rom a b { k with freqInc := f } =
      ({ (noiseStep rom a b k).1 with freqInc := f }, (noiseStep rom a b k).2) := by
  simp only [noiseStep]
  split_ifs <;> rfl

theorem playNoise_freqInc (rom : Rom) (a b n : Nat) (k : Track) (f : Word16) :
    playNoise rom a b n { k with freqInc := f } =
      ({ (playNoise rom a b n k).1 with freqInc := f }, (playNoise rom a b n k).2) := by
  induction n with
  | zero => rfl
  | succ n ih => rw [playNoise_succ, ih, noiseStep_freqInc, playNoise_succ rom a b n k]

/-- Settles O16: the runs differ in FREQ_INC alone. -/
theorem noiseIgnoresFrequency : Obligations.NoiseIgnoresFrequency := by
  intro rom a b k f n
  rw [playNoise_freqInc]
  exact ⟨rfl, rfl⟩

/-! ### The gate -/

/-- Settles O17: a generator operation is taken only for an active track that does not rest. -/
theorem generatorsAreGated : Obligations.GeneratorsAreGated := by
  intro s i k x hx hk h
  obtain ⟨code, f, -, e⟩ := exec_generator s hx
  rw [e]
  refine State.onTrack_not_taken hk (Bool.eq_false_iff.mpr fun hgen => ?_)
  obtain ⟨hactive, hinc, -⟩ := Track.generates_iff.mp hgen
  obtain hidle | hrest := h
  · cases hactive.symm.trans hidle
  · exact hinc hrest

end Sys2Proof.Machine
end

section
/-! PROOFS. The sequencer's operations: where they are taken, what they do and how they fault, and
how SEQ_STEP runs them (spec/41_sequencer.md R141 to R149; spec/60_exceptions.md R222 to R225). -/

namespace Sys2Proof.Machine

open Sys2Proof

/-! ### NOTE -/

theorem noteStep_streamOverrun {p : Pitch} {k : Track} (hp : p.toNat < 72)
    (hk : k.len.toNat ≤ k.pos.toNat + 1) (rom : Rom) (cfg : GlobalCfg) (t : Byte) :
    noteStep rom cfg p t k = .error (.raised .streamOverrun) := by
  obtain ⟨h, -⟩ | ⟨-, -, e⟩ | ⟨-, h, -⟩ | ⟨_, h, -⟩ := noteStep_cases rom cfg p t k
  · omega
  · exact e
  · omega
  · omega

/-- A legal NOTE loads its registers and produces its first sample (R144, R146). -/
theorem noteStep_of_legal {p : Pitch} {t : Byte} {k : Track} (hp : p.toNat < 72)
    (hk : k.pos.toNat + 1 < k.len.toNat) (ht : t ≠ 0) (rom : Rom) (cfg : GlobalCfg) :
    noteStep rom cfg p t k = produce rom cfg false
      { k with freqInc := freqRead rom ⟨p.toNat, hp⟩, currentNote := p, pos := k.pos + 2,
               rem := duration cfg t.toNat } := by
  obtain ⟨h, -⟩ | ⟨-, h, -⟩ | ⟨-, -, h, -⟩ | ⟨_, -, -, e⟩ := noteStep_cases rom cfg p t k
  · omega
  · omega
  · exact absurd h ht
  · exact e

theorem exec_note_of_atEvent {s : State} {i : TrackId} {k : Track} (p : Pitch) (t : Byte)
    (hc : s.computing i k) (hev : k.atEvent = true) :
    exec (.note i p t) s = s.afterTrack i k (noteStep s.rom s.cfg p t k) :=
  State.onTrack_taken hc hev

/-- Settles O19: the loaded track is silent at increment 0, and else its generator answers. -/
theorem noteResolvesAndPlays : Obligations.NoteResolvesAndPlays := by
  intro s i k p t hp hc hev hlen ht hg
  rw [exec_note_of_atEvent p t hc hev, noteStep_of_legal hp hlen ht]
  by_cases h0 : s.rom.freq[p.toNat] = 0
  · rw [produce_of_silent (.inr h0)]
    refine ⟨_, _, rfl, fun _ => ⟨rfl, ?_⟩, fun hne => absurd h0 hne⟩
    rw [← h0]
    rfl
  · obtain ⟨k', v, hd⟩ := genDispatch_of_legal (rom := s.rom)
      (k := { k with freqInc := freqRead s.rom ⟨p.toNat, hp⟩, currentNote := p, pos := k.pos + 2,
                     rem := duration s.cfg t.toNat }) hg
    rw [produce_of_dispatch hd (.inl rfl) h0]
    exact ⟨k', v, rfl, fun h => absurd h h0, fun _ => hd⟩

/-- An operation on one track that raises a fault with none recorded (R221). -/
theorem State.afterTrack_raised {s : State} (hf : s.fault.code = .none) (i : TrackId) (k : Track)
    (c : FaultCode) :
    s.afterTrack i k (.error (.raised c)) =
      .next { s with fault := { code := c, track := i, pos := k.pos }, busy := false } := by
  rw [← State.takeFault_of_no_fault hf]
  rfl

/-- Settles O20: the three checks of a NOTE, each under the ones before it. -/
theorem noteFaultsInOrder : Obligations.NoteFaultsInOrder := by
  intro s i k p t hc hev hf
  rw [exec_note_of_atEvent p t hc hev]
  refine ⟨fun hp => ?_, fun hp hlen => ?_, fun hp hlen ht => ?_⟩
  · rw [noteStep_badPitch (by omega), State.afterTrack_raised hf]
  · rw [noteStep_streamOverrun (by omega) hlen, State.afterTrack_raised hf]
  · rw [ht, noteStep_zeroDuration (by omega) hlen, State.afterTrack_raised hf]

/-! ### Where the operations are taken -/

theorem Track.atStopEnd_iff {k : Track} :
    k.atStopEnd = true ↔ k.active = true ∧ k.rem = 0 ∧ k.pos = k.len ∧ k.loop = false := by
  simp [Track.atStopEnd, Track.atBoundary, and_assoc]

theorem exec_endStop_of_atStopEnd {s : State} {i : TrackId} {k : Track}
    (hc : s.computing i k) (hend : k.atStopEnd = true) :
    exec (.endStop i) s = .next (s.put i (endStopStep k)) :=
  State.onTrack_taken (f := fun k => .ok (endStopStep k)) hc hend

/-- Settles O23: at the end of a stream that does not loop, END_STOP is its step. -/
theorem endStopSilencesTheTrack : Obligations.EndStopSilencesTheTrack := by
  intro s i k hc ha hr hp hl
  exact exec_endStop_of_atStopEnd hc (Track.atStopEnd_iff.mpr ⟨ha, hr, hp, hl⟩)

/-- Settles O24: each clause is the negation of the condition the operation is taken under. -/
theorem sequencerOperationsAreGated : Obligations.SequencerOperationsAreGated := by
  intro s i k p t r hk
  refine ⟨fun h => ?event, fun h => ?loopEnd, fun h => ?stopEnd⟩
  case event =>
    have hno : k.atEvent = false := Bool.eq_false_iff.mpr fun htaken => by
      obtain ⟨ha, hr, hne⟩ := Track.atEvent_iff.mp htaken
      simp [ha, hr, hne] at h
    exact ⟨State.onTrack_not_taken hk hno, State.onTrack_not_taken hk hno⟩
  case loopEnd =>
    have hno : k.atLoopEnd = false := Bool.eq_false_iff.mpr fun htaken => by
      obtain ⟨ha, hr, hp, hl⟩ := Track.atLoopEnd_iff.mp htaken
      simp [ha, hr, hp, hl] at h
    exact State.onTrack_not_taken hk hno
  case stopEnd =>
    have hno : k.atStopEnd = false := Bool.eq_false_iff.mpr fun htaken => by
      obtain ⟨ha, hr, hp, hl⟩ := Track.atStopEnd_iff.mp htaken
      simp [ha, hr, hp, hl] at h
    exact State.onTrack_not_taken (f := fun k => .ok (endStopStep k)) hk hno

/-! ### SEQ_STEP -/

section

variable {rom : Rom} {cfg : GlobalCfg} {k : Track}

theorem seqStep_of_inactive (ha : k.active = false) : seqStep rom cfg k = .ok (k, silence) := by
  simp [seqStep, ha]

theorem seqStep_of_rem_ne_zero (ha : k.active = true) (hr : k.rem ≠ 0) :
    seqStep rom cfg k = produce rom cfg false k := by
  rw [seqStep, if_pos ha, if_neg hr]

theorem seqStep_of_atEvent (h : k.atEvent = true) : seqStep rom cfg k = eventStep rom cfg k := by
  obtain ⟨ha, hr, hne⟩ := Track.atEvent_iff.mp h
  rw [seqStep, if_pos ha, if_pos hr, if_neg hne]

theorem seqStep_of_atLoopEnd (h : k.atLoopEnd = true) :
    seqStep rom cfg k = endLoopStep rom cfg k := by
  obtain ⟨ha, hr, hp, hl⟩ := Track.atLoopEnd_iff.mp h
  rw [seqStep, if_pos ha, if_pos hr, if_pos hp, if_pos hl]

theorem seqStep_of_atStopEnd (h : k.atStopEnd = true) :
    seqStep rom cfg k = .ok (endStopStep k) := by
  obtain ⟨ha, hr, hp, hl⟩ := Track.atStopEnd_iff.mp h
  rw [seqStep, if_pos ha, if_pos hr, if_pos hp, if_neg (by simp [hl])]

end

/-- Settles O25: away from a boundary SEQ_STEP is PRODUCE, or silence for an inactive track. -/
theorem sequencerWithinAnEvent : Obligations.SequencerWithinAnEvent := by
  intro rom cfg k
  refine ⟨seqStep_of_inactive, fun ha hr hf => ?_, fun ha hr hf k' v hd => ?_⟩
  · rw [seqStep_of_rem_ne_zero ha hr, produce_of_silent (.inr hf)]
    rfl
  · rw [seqStep_of_rem_ne_zero ha hr, produce_of_dispatch hd (.inl rfl) hf, Track.countDown,
      genDispatch_rem hd]

/-! ### The decoded event -/

/-- The operation of a stream event is the event's step (R143). -/
theorem exec_toInstr {s : State} {i : TrackId} {k : Track} (e : StreamEvent)
    (hc : s.computing i k) (hev : k.atEvent = true) :
    exec (e.toInstr i) s = s.afterTrack i k (performEvent s.rom s.cfg k e) := by
  cases e with
  | note p t => exact State.onTrack_taken hc hev
  | rest t => exact State.onTrack_taken hc hev

theorem decode_missingTick (i : TrackId) (p : Pitch) :
    decode (.stream i [0#1 ++ p]) = .error (.missingTick p) := by
  rw [decode, decodeEvent_missingTick]

theorem noteWithoutTick_eq (p : Pitch) :
    noteWithoutTick p = .raised (if 71 < p.toNat then .badPitch else .streamOverrun) := by
  unfold noteWithoutTick
  split_ifs with h1 h2 h2
  · omega
  · rfl
  · rfl
  · omega

/-- The generator operation that the code of the track stands for runs the dispatched generator
(R86, R141). -/
theorem exec_decodeGenerator {s : State} {i : TrackId} {k : Track} (hc : s.computing i k)
    (ha : k.active = true) (hf : k.freqInc ≠ 0) (hg : k.gen.toNat ≤ 4) :
    exec (decodeGenerator i k.gen) s = s.afterTrack i k (genDispatch s.rom k) := by
  have taken : ∀ {code : BitVec 3} (f : Track → Track × Sample), k.gen = code →
      s.onTrack i (Track.generates code) (fun k => .ok (f k)) = s.afterTrack i k (.ok (f k)) :=
    fun f hcode => State.onTrack_generates f hc ha hf hcode
  obtain ⟨e, hd⟩ | ⟨e, hd⟩ | ⟨e, hd⟩ | ⟨e, hd⟩ | ⟨e, hd⟩ | ⟨h, -⟩ := genDispatch_cases s.rom k
  · rw [hd, e]; exact taken sawStep e
  · rw [hd, e]; exact taken triStep e
  · rw [hd, e]; exact taken squareStep e
  · rw [hd, e]; exact taken (noise93Step s.rom) e
  · rw [hd, e]; exact taken (noise32kStep s.rom) e
  · omega

/-- Settles O26: a fetch holds a whole event, whose operation is its step, or a NOTE's first byte
alone, which does not decode; the end steps and the generators are those of the operations. -/
theorem sequencerRunsTheDecodedEvent : Obligations.SequencerRunsTheDecodedEvent := by
  intro s i k hc
  refine ⟨fun bs x hev hfetch hdec => ?event, fun bs e hev hfetch hdec => ?missing,
    fun hend => ?loopEnd, fun hend => ?stopEnd, fun x ha hf hg hdec => ?generator⟩
  case event =>
    obtain ⟨e, rfl⟩ | ⟨p, rfl⟩ := fetchEvent_ok hfetch
    · cases (decode_stream_encodeEvent i e).symm.trans hdec
      rw [exec_toInstr e hc hev, seqStep_of_atEvent hev, eventStep_of_event hfetch]
    · cases (decode_missingTick i p).symm.trans hdec
  case missing =>
    obtain ⟨e', rfl⟩ | ⟨p, rfl⟩ := fetchEvent_ok hfetch
    · cases (decode_stream_encodeEvent i e').symm.trans hdec
    · cases (decode_missingTick i p).symm.trans hdec
      exact ⟨p, rfl, by
        rw [seqStep_of_atEvent hev, eventStep_of_missingTick hfetch, noteWithoutTick_eq]⟩
  case loopEnd =>
    rw [seqStep_of_atLoopEnd hend]
    exact State.onTrack_taken hc hend
  case stopEnd =>
    rw [seqStep_of_atStopEnd hend]
    exact exec_endStop_of_atStopEnd hc hend
  case generator =>
    cases hdec
    exact exec_decodeGenerator hc ha hf hg

/-- Settles O27: inside the window both addresses are addresses of the memory. -/
theorem fetchReadsTheCursor : Obligations.FetchReadsTheCursor := by
  intro rom k hpos hwin
  have hread : ∀ a, a < 65536 → memRead rom a = some (Memory.lookup rom.stream a) :=
    fun a ha => if_pos ha
  obtain ⟨b0, hb0, h⟩ := fetchEvent_of_window (rom := rom) hpos hwin
  refine ⟨b0, by rw [hb0]; exact hread _ (by omega), ?_⟩
  simp only [isRestByte_eq_decide, decide_eq_true_eq, decide_eq_false_iff_not, not_le] at h
  obtain ⟨hb, e⟩ | ⟨hb, hlen, e⟩ | ⟨hb, hlen, e⟩ := h
  · exact ⟨fun _ => e, fun _ _ => e, fun h _ => by omega⟩
  · exact ⟨fun h => by omega, fun _ h => by omega, fun _ _ => ⟨_, hread _ (by omega), e⟩⟩
  · exact ⟨fun _ => e, fun _ _ => e, fun _ h => by omega⟩

end Sys2Proof.Machine
end

section
/-! PROOFS. How long an event lasts: between two boundaries SEQ_STEP is PRODUCE, and REM counts the
samples (spec/41_sequencer.md R148 to R153). -/

namespace Sys2Proof.Machine

open Sys2Proof

/-! ### PRODUCE repeated -/

section

variable {rom : Rom} {cfg : GlobalCfg} {k k₁ k₂ : Track} {vs vs₁ vs₂ : List Sample} {v : Sample}
  {n : Nat}

theorem produceFor_succ (h : produce rom cfg false k = .ok (k₁, v))
    (hn : produceFor rom cfg n k₁ = .ok (k₂, vs)) :
    produceFor rom cfg (n + 1) k = .ok (k₂, v :: vs) := by
  simp only [produceFor, h, hn]

/-- Samples that were produced: the first, and the others. -/
theorem produceFor_succ_ok (h : produceFor rom cfg (n + 1) k = .ok (k₂, vs)) :
    ∃ k₁ v vs₁, produce rom cfg false k = .ok (k₁, v) ∧
      produceFor rom cfg n k₁ = .ok (k₂, vs₁) ∧ vs = v :: vs₁ := by
  rw [produceFor] at h
  split at h
  · cases h
  · next k₁ v h₁ =>
    split at h
    · cases h
    · next k₃ vs₁ h₂ =>
      cases h
      exact ⟨k₁, v, vs₁, h₁, h₂, rfl⟩

theorem playTrack_succ (h : seqStep rom cfg k = .ok (k₁, v))
    (hn : playTrack rom cfg n k₁ = .ok (k₂, vs)) :
    playTrack rom cfg (n + 1) k = .ok (k₂, v :: vs) := by
  simp only [playTrack, h, hn]

/-- A 32-bit counter that has `r` left after being counted down by one and then by `n`. -/
theorem sub_one_sub_ofNat (r : BitVec 32) (n : Nat) :
    r - 1 - BitVec.ofNat 32 n = r - BitVec.ofNat 32 (n + 1) := by
  rw [BitVec.ofNat_add]
  bv_omega

/-- Producing samples changes PHASE, NOISE and REM only, and REM by their number (R149). -/
theorem produceFor_ok (h : produceFor rom cfg n k = .ok (k₁, vs)) :
    vs.length = n ∧
      k₁ = { k with phase := k₁.phase, noise := k₁.noise, rem := k.rem - BitVec.ofNat 32 n } := by
  induction n generalizing k vs with
  | zero => cases h; exact ⟨rfl, by rw [BitVec.sub_zero]⟩
  | succ n ih =>
    obtain ⟨k₂, v, vs₂, hp, hn, rfl⟩ := produceFor_succ_ok h
    obtain ⟨hlen, hk₁⟩ := ih hn
    obtain ⟨hk₂, -⟩ := produce_ok hp
    refine ⟨by rw [List.length_cons, hlen], ?_⟩
    rw [hk₁, hk₂, ← sub_one_sub_ofNat]

/-- A legal generator answers for any number of samples. -/
theorem produceFor_of_legal (hg : k.gen.toNat ≤ 4) (n : Nat) :
    ∃ k' vs, produceFor rom cfg n k = .ok (k', vs) := by
  induction n generalizing k with
  | zero => exact ⟨k, [], rfl⟩
  | succ n ih =>
    obtain ⟨k₁, v, hp⟩ := produce_of_legal (rom := rom) (cfg := cfg) (wrapped := false) hg
    obtain ⟨hk₁, -⟩ := produce_ok hp
    obtain ⟨k₂, vs, hn⟩ := ih (k := k₁) (by rw [hk₁]; exact hg)
    exact ⟨k₂, v :: vs, produceFor_succ hp hn⟩

/-- At increment 0 every sample is silence and only REM changes. -/
theorem produceFor_of_rest (hf : k.freqInc = 0) (n : Nat) :
    produceFor rom cfg n k =
      .ok ({ k with rem := k.rem - BitVec.ofNat 32 n }, List.replicate n silence) := by
  induction n generalizing k with
  | zero =>
    have hself : { k with rem := k.rem - BitVec.ofNat 32 0 } = k := by
      rw [BitVec.sub_zero]
    rw [hself]
    rfl
  | succ n ih =>
    have hn := ih (k := k.countDown) hf
    rw [Track.countDown, sub_one_sub_ofNat] at hn
    exact produceFor_succ (produce_of_silent (.inr hf) rom) hn

/-! ### Inside an event -/

/-- While REM lasts, SEQ_STEP is PRODUCE (R149). -/
theorem playTrack_eq_produceFor (ha : k.active = true) (hn : n ≤ k.rem.toNat) :
    playTrack rom cfg n k = produceFor rom cfg n k := by
  induction n generalizing k with
  | zero => rfl
  | succ n ih =>
    have hr : k.rem ≠ 0 := fun e => by rw [e] at hn; exact absurd hn (Nat.not_succ_le_zero n)
    rw [playTrack, produceFor, seqStep_of_rem_ne_zero ha hr]
    cases hp : produce rom cfg false k with
    | error d => rfl
    | ok r =>
      obtain ⟨k₁, v⟩ := r
      obtain ⟨hk₁, -⟩ := produce_ok hp
      have hrem : n ≤ k₁.rem.toNat := by rw [hk₁]; bv_omega
      have hrest := ih (k := k₁) (by rw [hk₁]; exact ha) hrem
      simp only [hrest]

theorem playTrack_of_rest (ha : k.active = true) (hf : k.freqInc = 0) (hn : n ≤ k.rem.toNat) :
    playTrack rom cfg n k =
      .ok ({ k with rem := k.rem - BitVec.ofNat 32 n }, List.replicate n silence) :=
  (playTrack_eq_produceFor ha hn).trans (produceFor_of_rest hf n)

end

/-! ### The duration law -/

theorem one_le_toNat {w : Nat} {t : BitVec w} (ht : t ≠ 0) : 1 ≤ t.toNat :=
  Nat.pos_of_ne_zero fun h => ht (BitVec.eq_of_toNat_eq (by rw [h, BitVec.ofNat_eq_ofNat,
    BitVec.toNat_zero]))

/-- An event's duration in samples is at least 1 and REM holds it (R84). -/
theorem duration_bounds {cfg : GlobalCfg} (hcfg : configInRange cfg) {t : Nat} (h1 : 1 ≤ t)
    (h2 : t ≤ 255) : 1 ≤ t * cfg.samplesPerTick ∧ t * cfg.samplesPerTick < 2 ^ 32 := by
  obtain ⟨-, -, -, -, -, hspt, hmax⟩ := hcfg
  refine ⟨Nat.mul_pos h1 hspt, ?_⟩
  have hle : t * cfg.samplesPerTick ≤ 255 * cfg.samplesPerTick := Nat.mul_le_mul_right _ h2
  omega

theorem duration_sub_one_toNat {cfg : GlobalCfg} (hcfg : configInRange cfg) {t : Nat} (h1 : 1 ≤ t)
    (h2 : t ≤ 255) : (duration cfg t - 1).toNat = t * cfg.samplesPerTick - 1 := by
  obtain ⟨hpos, hmax⟩ := duration_bounds hcfg h1 h2
  have hdur : (duration cfg t).toNat = t * cfg.samplesPerTick :=
    (BitVec.toNat_ofNat _ 32).trans (Nat.mod_eq_of_lt hmax)
  bv_omega

/-- Settles O28: the NOTE's own step is the first of its samples, and the steps after it only
produce. -/
theorem noteLastsItsDuration : Obligations.NoteLastsItsDuration := by
  intro rom cfg k p t hcfg hp ht ha hg hlen
  have ht1 : 1 ≤ t.toNat := one_le_toNat ht
  have hdur := duration_sub_one_toNat hcfg ht1 (Nat.le_of_lt_succ t.isLt)
  have hp' : p.toNat < 72 := Nat.lt_succ_of_le hp
  obtain ⟨k₁, v, h₁⟩ := produce_of_legal (rom := rom) (cfg := cfg) (wrapped := false)
    (k := { k with freqInc := freqRead rom ⟨p.toNat, hp'⟩, currentNote := p, pos := k.pos + 2,
                   rem := duration cfg t.toNat }) hg
  obtain ⟨hk₁, -⟩ := produce_ok h₁
  refine ⟨k₁, v, by rw [noteStep_of_legal hp' hlen ht, h₁], fun n hn => ?_⟩
  have ha₁ : k₁.active = true := by rw [hk₁]; exact ha
  have hg₁ : k₁.gen.toNat ≤ 4 := by rw [hk₁]; exact hg
  have hrem₁ : k₁.rem.toNat = t.toNat * cfg.samplesPerTick - 1 := by rw [hk₁]; exact hdur
  obtain ⟨k₂, vs, h₂⟩ := produceFor_of_legal (rom := rom) (cfg := cfg) hg₁ n
  obtain ⟨hvs, hk₂⟩ := produceFor_ok h₂
  refine ⟨k₂, vs, by rw [playTrack_eq_produceFor ha₁ (by omega), h₂], hvs, ?_, ?_, ?_, ?_⟩
  · rw [hk₂]; exact ha₁
  · rw [hk₂, hk₁]
  · rw [hk₂]
  · rw [hk₂]
    have hlt := k₁.rem.isLt
    bv_omega

/-- Settles O29: at increment 0 the steps that only produce are silent. -/
theorem restLastsItsDuration : Obligations.RestLastsItsDuration := by
  intro rom cfg k t hcfg ht ha
  have ht1 : 1 ≤ t.toNat := one_le_toNat ht
  have hdur := duration_sub_one_toNat hcfg ht1 (t.isLt.le.trans (by decide))
  refine ⟨_, restStep_of_ne_zero ht rom cfg k, fun n hn => ?_⟩
  have hrem : duration cfg t.toNat - 1 - BitVec.ofNat 32 n =
      BitVec.ofNat 32 (t.toNat * cfg.samplesPerTick - 1 - n) := by
    have hlt := (duration cfg t.toNat - 1).isLt
    bv_omega
  rw [← hrem]
  exact playTrack_of_rest ha rfl (by rw [hdur]; omega)

/-- An inactive track is silent for any number of steps and keeps every register (R142). -/
theorem playTrack_of_inactive {k : Track} (ha : k.active = false) (rom : Rom) (cfg : GlobalCfg)
    (n : Nat) : playTrack rom cfg n k = .ok (k, List.replicate n silence) := by
  induction n with
  | zero => rfl
  | succ n ih => exact playTrack_succ (seqStep_of_inactive ha) ih

/-- Settles O31: the first step is END_STOP, and the track is inactive in all others. -/
theorem stoppedTrackStaysSilent : Obligations.StoppedTrackStaysSilent := by
  intro rom cfg k n ha hr hp hl
  exact playTrack_succ (seqStep_of_atStopEnd (Track.atStopEnd_iff.mpr ⟨ha, hr, hp, hl⟩))
    (playTrack_of_inactive rfl rom cfg n)

end Sys2Proof.Machine
end

section
/-! PROOFS. The pseudo-instructions REST* and NOTE*: the events they expand to, and that a track
which stands before an expansion plays it as one event of the full length (spec/30_encoding.md R84, R94,
R95; spec/41_sequencer.md R149). -/

namespace Sys2Proof.Machine

open Sys2Proof

/-! ### The counts of an expansion -/

theorem splitTicks_sum (m t : Nat) : (splitTicks m t).sum = t := by
  have hdiv := Nat.div_add_mod' t m
  unfold splitTicks
  split_ifs with h
  · simp; omega
  · simp; omega

theorem mem_splitTicks {m t n : Nat} (hm : 0 < m) (h : n ∈ splitTicks m t) : 1 ≤ n ∧ n ≤ m := by
  have hmod := Nat.mod_lt t hm
  unfold splitTicks at h
  rw [List.mem_append, List.mem_replicate] at h
  obtain ⟨-, rfl⟩ | h := h
  · exact ⟨hm, le_rfl⟩
  · split_ifs at h with h0
    · cases h
    · obtain rfl := List.mem_singleton.mp h
      omega

/-- The ticks an event's bytes hold. -/
def eventTicks : StreamEvent → Nat
  | .note _ t => t.toNat
  | .rest t => t.toNat

theorem mem_restStar {t : Nat} {e : StreamEvent} (h : e ∈ restStar t) :
    ∃ n : BitVec 7, e = .rest n ∧ n ≠ 0 := by
  obtain ⟨n, hn, rfl⟩ := List.mem_map.mp h
  have hbound := mem_splitTicks (by decide) hn
  exact ⟨_, rfl, fun h0 => by bv_omega⟩

theorem mem_noteStar {p : Pitch} {t : Nat} {e : StreamEvent} (h : e ∈ noteStar p t) :
    ∃ n : Byte, e = .note p n ∧ n ≠ 0 := by
  obtain ⟨n, hn, rfl⟩ := List.mem_map.mp h
  have hbound := mem_splitTicks (by decide) hn
  exact ⟨_, rfl, fun h0 => by bv_omega⟩

theorem restStar_wellFormed {t : Nat} {e : StreamEvent} (h : e ∈ restStar t) :
    e.wellFormed = true := by
  obtain ⟨n, rfl, hn⟩ := mem_restStar h
  exact rest_wellFormed hn

theorem noteStar_wellFormed {p : Pitch} (hp : p.toNat ≤ 71) {t : Nat} {e : StreamEvent}
    (h : e ∈ noteStar p t) : e.wellFormed = true := by
  obtain ⟨n, rfl, hn⟩ := mem_noteStar h
  exact note_wellFormed hp hn

/-- An expansion's ticks add up, because each count fits into its event. -/
theorem sum_map_splitTicks {m : Nat} (hm : 0 < m) (t : Nat) {f : Nat → Nat}
    (hf : ∀ n ≤ m, f n = n) : ((splitTicks m t).map f).sum = t := by
  rw [List.map_congr_left fun n hn => hf n (mem_splitTicks hm hn).2, List.map_id',
    splitTicks_sum]

theorem restStar_ticks (t : Nat) : ((restStar t).map eventTicks).sum = t := by
  rw [restStar, List.map_map]
  exact sum_map_splitTicks (by decide) t fun n hn =>
    (BitVec.toNat_ofNat n 7).trans (Nat.mod_eq_of_lt (by omega))

theorem noteStar_ticks (p : Pitch) (t : Nat) : ((noteStar p t).map eventTicks).sum = t := by
  rw [noteStar, List.map_map]
  exact sum_map_splitTicks (by decide) t fun n hn =>
    (BitVec.toNat_ofNat n 8).trans (Nat.mod_eq_of_lt (by omega))

/-! ### PRODUCE reads neither POS nor REM -/

/-- The track with another cursor and another REM. -/
def Track.relocate (k : Track) (pos : Word16) (rem : BitVec 32) : Track :=
  { k with pos := pos, rem := rem }

section

variable {rom : Rom} {cfg : GlobalCfg} {k k₁ : Track} {v : Sample} {vs : List Sample}

theorem noiseStep_relocate {a b : Nat} (h : noiseStep rom a b k = (k₁, v)) (pos : Word16)
    (rem : BitVec 32) : noiseStep rom a b (k.relocate pos rem) = (k₁.relocate pos rem, v) := by
  change noiseStep rom a b { k with pos := pos, rem := rem } = _
  simp only [noiseStep] at h ⊢
  split_ifs at h ⊢ <;> cases h <;> rfl

theorem genDispatch_relocate (h : genDispatch rom k = .ok (k₁, v)) (pos : Word16)
    (rem : BitVec 32) :
    genDispatch rom (k.relocate pos rem) = .ok (k₁.relocate pos rem, v) := by
  have hgen : (k.relocate pos rem).gen = k.gen := rfl
  obtain ⟨hg, e⟩ | ⟨hg, e⟩ | ⟨hg, e⟩ | ⟨hg, e⟩ | ⟨hg, e⟩ | ⟨-, e⟩ := genDispatch_cases rom k <;>
    rw [e] at h
  · cases h; rw [genDispatch, hgen, hg]; rfl
  · cases h; rw [genDispatch, hgen, hg]; rfl
  · cases h; rw [genDispatch, hgen, hg]; rfl
  · rw [genDispatch, hgen, hg]
    exact congrArg Except.ok (noiseStep_relocate (Except.ok.inj h) pos rem)
  · rw [genDispatch, hgen, hg]
    exact congrArg Except.ok (noiseStep_relocate (Except.ok.inj h) pos rem)
  · cases h

theorem produce_relocate (h : produce rom cfg false k = .ok (k₁, v)) (pos : Word16)
    (rem : BitVec 32) :
    produce rom cfg false (k.relocate pos rem) = .ok (k₁.relocate pos (rem - 1), v) := by
  by_cases hf : k.freqInc = 0
  · rw [produce_of_silent (.inr hf)] at h
    cases h
    exact produce_of_silent (k := k.relocate pos rem) (.inr hf) rom
  · obtain ⟨hsilent, -⟩ | ⟨-, k₂, v₂, hd, e⟩ | ⟨-, d, -, e⟩ := produce_cases rom cfg false k
    · exact absurd (hsilent.resolve_left (by simp)) hf
    · rw [e] at h
      cases h
      exact produce_of_dispatch (k := k.relocate pos rem) (genDispatch_relocate hd pos rem)
        (.inl rfl) hf
    · rw [e] at h
      cases h

theorem produceFor_relocate {n : Nat} (h : produceFor rom cfg n k = .ok (k₁, vs)) (pos : Word16)
    (rem : BitVec 32) :
    produceFor rom cfg n (k.relocate pos rem) =
      .ok (k₁.relocate pos (rem - BitVec.ofNat 32 n), vs) := by
  induction n generalizing k vs rem with
  | zero =>
    cases h
    rw [BitVec.sub_zero]
    rfl
  | succ n ih =>
    obtain ⟨k₂, v, vs₂, hp, hn, rfl⟩ := produceFor_succ_ok h
    rw [← sub_one_sub_ofNat]
    exact produceFor_succ (produce_relocate hp pos rem) (ih hn (rem - 1))

/-- Producing in two parts. -/
theorem produceFor_add_ok {m n : Nat} {k₂ : Track}
    (h : produceFor rom cfg (m + n) k = .ok (k₂, vs)) :
    ∃ k₁ vs₁ vs₂, produceFor rom cfg m k = .ok (k₁, vs₁) ∧
      produceFor rom cfg n k₁ = .ok (k₂, vs₂) ∧ vs = vs₁ ++ vs₂ := by
  induction m generalizing k vs with
  | zero => exact ⟨k, [], vs, rfl, by rwa [Nat.zero_add] at h, rfl⟩
  | succ m ih =>
    rw [Nat.add_right_comm] at h
    obtain ⟨k₀, v, vs₀, hp, hn, rfl⟩ := produceFor_succ_ok h
    obtain ⟨k₁, vs₁, vs₂, h₁, h₂, rfl⟩ := ih hn
    exact ⟨k₁, v :: vs₁, vs₂, produceFor_succ hp h₁, h₂, rfl⟩

theorem playTrack_add {m n : Nat} {k₂ : Track} {vs₂ : List Sample}
    (h₁ : playTrack rom cfg m k = .ok (k₁, vs)) (h₂ : playTrack rom cfg n k₁ = .ok (k₂, vs₂)) :
    playTrack rom cfg (m + n) k = .ok (k₂, vs ++ vs₂) := by
  induction m generalizing k vs with
  | zero => cases h₁; rwa [Nat.zero_add]
  | succ m ih =>
    rw [playTrack] at h₁
    split at h₁
    · cases h₁
    · next k₀ v hs =>
      split at h₁
      · cases h₁
      · next k₃ vs₀ hm =>
        cases h₁
        rw [Nat.add_right_comm]
        exact playTrack_succ hs (ih hm)

end

/-! ### One event at the cursor -/

/-- What an event loads besides the cursor and REM (R144, R145). -/
def loadEvent (rom : Rom) (k : Track) : StreamEvent → Track
  | .note p _ => { k with freqInc := rom.freq[p.toNat]?.getD 0, currentNote := p }
  | .rest _ => { k with freqInc := 0, phase := 0 }

theorem loadEvent_note {rom : Rom} {k : Track} {p : Pitch} (hp : p.toNat < 72) (t : Byte) :
    loadEvent rom k (.note p t) = { k with freqInc := rom.freq[p.toNat], currentNote := p } := by
  simp [loadEvent, hp]

/-- The cursor and REM after an event's own step has begun. -/
def eventTrack (rom : Rom) (cfg : GlobalCfg) (k : Track) (e : StreamEvent) : Track :=
  (loadEvent rom k e).relocate (k.pos + BitVec.ofNat 16 (encodeEvent e).length)
    (duration cfg (eventTicks e))

theorem performEvent_of_wellFormed {rom : Rom} {cfg : GlobalCfg} {k : Track} {e : StreamEvent}
    (he : e.wellFormed = true) (hfit : k.pos.toNat + (encodeEvent e).length ≤ k.len.toNat) :
    performEvent rom cfg k e = produce rom cfg false (eventTrack rom cfg k e) := by
  cases e with
  | note p t =>
    simp only [StreamEvent.wellFormed, Bool.and_eq_true, decide_eq_true_eq] at he
    obtain ⟨hp, ht⟩ := he
    have hp' : p.toNat < 72 := Nat.lt_succ_of_le hp
    rw [performEvent, noteStep_of_legal hp' hfit ht, eventTrack, loadEvent_note hp']
    rfl
  | rest t =>
    have ht : t ≠ 0 := of_decide_eq_true he
    rw [performEvent, restStep, if_neg ht]
    rfl

theorem encodeEvent_length_pos (e : StreamEvent) : 1 ≤ (encodeEvent e).length := by
  cases e <;> simp [encodeEvent]

/-- The fetch answers the event whose bytes stand at the cursor (R143). -/
theorem fetchEvent_of_bytes {rom : Rom} {k : Track} {e : StreamEvent}
    (hwin : k.base.toNat + k.len.toNat ≤ 65536)
    (h : encodeEvent e <+: (streamBytes rom k).drop k.pos.toNat) :
    k.pos.toNat + (encodeEvent e).length ≤ k.len.toNat ∧
      fetchEvent rom k = .ok (encodeEvent e) := by
  have hlen := h.length_le
  have hpos := encodeEvent_length_pos e
  rw [List.length_drop, streamBytes_length] at hlen
  have hlt : k.pos.toNat < k.len.toNat := by omega
  refine ⟨by omega, ?_⟩
  rw [streamBytes_drop rom hlt] at h
  obtain ⟨b0, hb0, hf⟩ := fetchEvent_of_window (rom := rom) hlt hwin
  rw [← hb0] at h
  cases e with
  | note p t =>
    have hlt' : k.pos.toNat + 1 < k.len.toNat := by
      have htwo : (encodeEvent (.note p t)).length = 2 := rfl
      omega
    rw [streamBytes_drop rom hlt', encodeEvent, List.cons_prefix_cons, List.cons_prefix_cons] at h
    obtain ⟨rfl, rfl, -⟩ := h
    obtain ⟨hb, -⟩ | ⟨-, -, e⟩ | ⟨-, hend, -⟩ := hf
    · simp at hb
    · exact e
    · omega
  | rest t =>
    rw [encodeEvent, List.cons_prefix_cons] at h
    obtain ⟨rfl, -⟩ := h
    obtain ⟨-, e⟩ | ⟨hb, -⟩ | ⟨hb, -⟩ := hf
    · exact e
    · simp at hb
    · simp at hb

section

variable {rom : Rom} {cfg : GlobalCfg} {k : Track} {e : StreamEvent} {es : List StreamEvent}

/-- At a legal event SEQ_STEP is PRODUCE on what the event loads. -/
theorem seqStep_of_standsBefore (he : e.wellFormed = true)
    (hk : k.standsBefore rom (e :: es)) :
    seqStep rom cfg k = produce rom cfg false (eventTrack rom cfg k e) := by
  obtain ⟨ha, hr, hwin, hbytes⟩ := hk
  obtain ⟨hfit, hfetch⟩ := fetchEvent_of_bytes hwin ((List.prefix_append _ _).trans hbytes)
  have hpos := encodeEvent_length_pos e
  have hev : k.atEvent = true := Track.atEvent_iff.mpr
    ⟨ha, hr, fun h => by rw [h] at hfit; omega⟩
  rw [seqStep_of_atEvent hev, eventStep_of_event hfetch, performEvent_of_wellFormed he hfit]

theorem eventTicks_bounds (he : e.wellFormed = true) : 1 ≤ eventTicks e ∧ eventTicks e ≤ 255 := by
  cases e with
  | note p t =>
    simp only [StreamEvent.wellFormed, Bool.and_eq_true, decide_eq_true_eq] at he
    exact ⟨one_le_toNat he.2, Nat.le_of_lt_succ t.isLt⟩
  | rest t => exact ⟨one_le_toNat (of_decide_eq_true he), t.isLt.le.trans (by decide)⟩

/-- A legal event is played by its own step and the steps that REM counts (R151). -/
theorem playTrack_event (hcfg : configInRange cfg) (he : e.wellFormed = true)
    (hk : k.standsBefore rom (e :: es)) :
    playTrack rom cfg (eventTicks e * cfg.samplesPerTick) k =
      produceFor rom cfg (eventTicks e * cfg.samplesPerTick) (eventTrack rom cfg k e) := by
  obtain ⟨h1, h255⟩ := eventTicks_bounds he
  have hsub := duration_sub_one_toNat hcfg h1 h255
  obtain ⟨hN, -⟩ := duration_bounds hcfg h1 h255
  obtain ⟨m, hm⟩ : ∃ m, eventTicks e * cfg.samplesPerTick = m + 1 :=
    ⟨_, (Nat.sub_add_cancel hN).symm⟩
  have ha : (eventTrack rom cfg k e).active = true := by
    obtain ⟨ha, -⟩ := hk
    cases e <;> exact ha
  rw [hm, playTrack, produceFor, seqStep_of_standsBefore he hk]
  cases hp : produce rom cfg false (eventTrack rom cfg k e) with
  | error d => rfl
  | ok r =>
    obtain ⟨k₁, v⟩ := r
    obtain ⟨hk₁, -⟩ := produce_ok hp
    have hrem : k₁.rem.toNat = m := by
      rw [hk₁]
      exact hsub.trans (by rw [hm, Nat.add_sub_cancel])
    have ha₁ : k₁.active = true := by rw [hk₁]; exact ha
    simp only [playTrack_eq_produceFor ha₁ hrem.ge]

end

/-! ### A list of events with one tone -/

section

variable {rom : Rom} {cfg : GlobalCfg} {k k₁ : Track} {vs : List Sample}

/-- Producing samples keeps what an event of the same tone would load. -/
theorem loadEvent_of_produceFor {n : Nat} {e : StreamEvent} (hk : loadEvent rom k e = k)
    (h : produceFor rom cfg n k = .ok (k₁, vs)) (pos : Word16) (rem : BitVec 32) :
    loadEvent rom (k₁.relocate pos rem) e = k₁.relocate pos rem := by
  cases e with
  | note p t =>
    obtain ⟨-, hk₁⟩ := produceFor_ok h
    rw [← hk] at hk₁
    rw [hk₁]
    rfl
  | rest t =>
    have hf : k.freqInc = 0 := congrArg Track.freqInc hk.symm
    rw [produceFor_of_rest hf, ← hk] at h
    cases h
    rfl

/-- The event that begins a list begins a step that reads nothing the event loads. -/
theorem playTrack_loadEvent {n : Nat} {e : StreamEvent} {es : List StreamEvent} (hn : 1 ≤ n)
    (he : e.wellFormed = true) (hk : k.standsBefore rom (e :: es)) :
    playTrack rom cfg n k = playTrack rom cfg n (loadEvent rom k e) := by
  obtain ⟨m, rfl⟩ : ∃ m, n = m + 1 := ⟨_, (Nat.sub_add_cancel hn).symm⟩
  have hk' : (loadEvent rom k e).standsBefore rom (e :: es) := by cases e <;> exact hk
  have hsame : eventTrack rom cfg (loadEvent rom k e) e = eventTrack rom cfg k e := by
    cases e <;> rfl
  rw [playTrack, playTrack, seqStep_of_standsBefore he hk, seqStep_of_standsBefore he hk', hsame]

/-- The cursor past an event stands before the events after it. -/
theorem standsBefore_tail {e : StreamEvent} {es : List StreamEvent}
    (hk : k.standsBefore rom (e :: es)) (h₁ : k.KeepsSetup k₁) :
    (k₁.relocate (k.pos + BitVec.ofNat 16 (encodeEvent e).length) 0).standsBefore rom es := by
  obtain ⟨ha, -, hwin, hbytes⟩ := hk
  obtain ⟨hbase, hlen, -, -, hactive⟩ := h₁
  obtain ⟨hfit, -⟩ := fetchEvent_of_bytes hwin ((List.prefix_append _ _).trans hbytes)
  have hpos : (k.pos + BitVec.ofNat 16 (encodeEvent e).length).toNat =
      k.pos.toNat + (encodeEvent e).length := by
    have hlt := k.len.isLt
    bv_omega
  refine ⟨hactive.trans ha, rfl, by rw [Track.relocate, hbase, hlen]; exact hwin, ?_⟩
  have hstream : ∀ pos rem, streamBytes rom (k₁.relocate pos rem) = streamBytes rom k := by
    intro pos rem
    simp only [streamBytes, Track.relocate, hbase, hlen]
  obtain ⟨rest, hrest⟩ := hbytes
  have hdrop := congrArg (List.drop (encodeEvent e).length) hrest
  rw [assemble, List.append_assoc, List.drop_left, List.drop_drop] at hdrop
  rw [hstream]
  change assemble es <+: List.drop (k.pos + BitVec.ofNat 16 (encodeEvent e).length).toNat _
  rw [hpos, ← hdrop]
  exact List.prefix_append _ _

/-- Events of the tone the track has are played as one event of the full length. -/
theorem playTrack_events {es : List StreamEvent} (hcfg : configInRange cfg)
    (hes : ∀ e ∈ es, e.wellFormed = true) (htone : ∀ e ∈ es, loadEvent rom k e = k)
    (hk : k.standsBefore rom es)
    (h : produceFor rom cfg ((es.map eventTicks).sum * cfg.samplesPerTick) k = .ok (k₁, vs)) :
    playTrack rom cfg ((es.map eventTicks).sum * cfg.samplesPerTick) k =
      .ok (k₁.relocate (k.pos + BitVec.ofNat 16 (assemble es).length) 0, vs) := by
  induction es generalizing k k₁ vs with
  | nil =>
    obtain ⟨-, hr, -⟩ := hk
    simp only [List.map_nil, List.sum_nil, Nat.zero_mul, produceFor, playTrack] at h ⊢
    cases h
    have hself : k.relocate (k.pos + BitVec.ofNat 16 (assemble []).length) 0 = k := by
      rw [Track.relocate, ← hr, assemble, List.length_nil, BitVec.add_zero]
    rw [hself]
  | cons e es ih =>
    rw [List.map_cons, List.sum_cons, Nat.add_mul] at h ⊢
    obtain ⟨he, hes'⟩ := List.forall_mem_cons.mp hes
    obtain ⟨hload, htone'⟩ := List.forall_mem_cons.mp htone
    obtain ⟨k₂, vs₁, vs₂, h₁, h₂, rfl⟩ := produceFor_add_ok h
    obtain ⟨-, hk₂⟩ := produceFor_ok h₁
    have hsetup : k.KeepsSetup k₂ := by
      rw [hk₂]
      exact ⟨rfl, rfl, rfl, rfl, rfl⟩
    have hfirst := produceFor_relocate h₁ (k.pos + BitVec.ofNat 16 (encodeEvent e).length)
      (duration cfg (eventTicks e))
    rw [duration, BitVec.sub_self] at hfirst
    have hplay := playTrack_event hcfg he hk
    rw [eventTrack, hload] at hplay
    have hrest := ih hes' (fun e' he' => loadEvent_of_produceFor (htone' e' he') h₁ _ _)
      (standsBefore_tail hk hsetup) (produceFor_relocate h₂ _ 0)
    have hlen : BitVec.ofNat 16 (assemble (e :: es)).length =
        BitVec.ofNat 16 (encodeEvent e).length + BitVec.ofNat 16 (assemble es).length := by
      rw [assemble, List.length_append, BitVec.ofNat_add]
    rw [playTrack_add (hplay.trans hfirst) hrest, hlen, ← BitVec.add_assoc]
    rfl

/-- Events that all load the same tone are played as one event of the full length. -/
theorem playTrack_events_of_tone {es : List StreamEvent} {k₀ : Track} (hcfg : configInRange cfg)
    (hes : ∀ e ∈ es, e.wellFormed = true) (htone : ∀ e ∈ es, loadEvent rom k e = k₀)
    (htone₀ : ∀ e ∈ es, loadEvent rom k₀ e = k₀)
    (hk : k.standsBefore rom es) {t : Nat} (ht : (es.map eventTicks).sum = t) (ht1 : 1 ≤ t)
    (h : produceFor rom cfg (t * cfg.samplesPerTick) k₀ = .ok (k₁, vs)) :
    playTrack rom cfg (t * cfg.samplesPerTick) k =
      .ok (k₁.relocate (k.pos + BitVec.ofNat 16 (assemble es).length) 0, vs) := by
  have ⟨_, _, _, _, _, hspt, _⟩ := hcfg
  subst ht
  cases es with
  | nil => simp at ht1
  | cons e es =>
    obtain ⟨he, -⟩ := List.forall_mem_cons.mp hes
    obtain ⟨rfl, -⟩ := List.forall_mem_cons.mp htone
    have hk₀ : (loadEvent rom k e).standsBefore rom (e :: es) := by cases e <;> exact hk
    have hpos : (loadEvent rom k e).pos = k.pos := by cases e <;> rfl
    rw [playTrack_loadEvent (Nat.mul_pos ht1 hspt) he hk, ← hpos]
    exact playTrack_events hcfg hes htone₀ hk₀ h

end

/-! ### The two expansions -/

theorem restStar_eq (t : Nat) :
    restStar t = List.replicate (t / 127) (.rest 127#7) ++
      (if t % 127 = 0 then [] else [.rest (BitVec.ofNat 7 (t % 127))]) := by
  simp [restStar, splitTicks, apply_ite]

theorem noteStar_eq (p : Pitch) (t : Nat) :
    noteStar p t = List.replicate (t / 255) (.note p 255#8) ++
      (if t % 255 = 0 then [] else [.note p (BitVec.ofNat 8 (t % 255))]) := by
  simp [noteStar, splitTicks, apply_ite]

/-- Settles O5: an expansion's events load one tone, so each continues the event before it. -/
theorem pseudoInstructionsExpandExactly : Obligations.PseudoInstructionsExpandExactly := by
  refine ⟨fun t => ⟨restStar_eq t, fun p => noteStar_eq p t⟩, fun t => ⟨?restLegal, ?noteLegal⟩,
    fun rom cfg k t hcfg ht => ⟨fun hk => ?restPlays, fun p hp hg hk => ?notePlays⟩⟩
  case restLegal =>
    refine ⟨List.all_eq_true.mpr fun e he => restStar_wellFormed he, ?_, fun e he => ?_⟩
    · refine Eq.trans (congrArg List.sum (List.map_congr_left fun e he => ?_)) (restStar_ticks t)
      obtain ⟨n, rfl, -⟩ := mem_restStar he
      rfl
    · obtain ⟨n, rfl, -⟩ := mem_restStar he
      exact ⟨n, rfl⟩
  case noteLegal =>
    intro p hp
    refine ⟨List.all_eq_true.mpr fun e he => noteStar_wellFormed hp he, ?_, fun e he => ?_⟩
    · refine Eq.trans (congrArg List.sum (List.map_congr_left fun e he => ?_)) (noteStar_ticks p t)
      obtain ⟨n, rfl, -⟩ := mem_noteStar he
      rfl
    · obtain ⟨n, rfl, -⟩ := mem_noteStar he
      exact ⟨n, rfl⟩
  case restPlays =>
    have htone : ∀ k' : Track, ∀ e ∈ restStar t,
        loadEvent rom k' e = { k' with freqInc := 0, phase := 0 } := by
      intro k' e he
      obtain ⟨n, rfl, -⟩ := mem_restStar he
      rfl
    exact playTrack_events_of_tone hcfg (fun e => restStar_wellFormed) (htone k) (htone _) hk
      (restStar_ticks t) ht (produceFor_of_rest rfl _)
  case notePlays =>
    have htone : ∀ k' : Track, ∀ e ∈ noteStar p t,
        loadEvent rom k' e = { k' with freqInc := rom.freq[p.toNat], currentNote := p } := by
      intro k' e he
      obtain ⟨n, rfl, -⟩ := mem_noteStar he
      exact loadEvent_note hp n
    obtain ⟨k₁, vs, h⟩ := produceFor_of_legal (rom := rom) (cfg := cfg)
      (k := { k with freqInc := rom.freq[p.toNat], currentNote := p }) hg (t * cfg.samplesPerTick)
    have hfull := produceFor_relocate h k.pos (BitVec.ofNat 32 (t * cfg.samplesPerTick))
    rw [BitVec.sub_self] at hfull
    have hplay := playTrack_events_of_tone hcfg
      (fun e => noteStar_wellFormed (Nat.le_of_lt_succ hp)) (htone k) (htone _) hk
      (noteStar_ticks p t) ht h
    exact ⟨_, vs, hfull, hplay⟩

end Sys2Proof.Machine
end
